-- ==== Sys2Proof/Word.lean ====
section
/-! DEFINITION. The word types of the command encoder: a byte on the bus, a 32-bit host register, the 24
address bits a frame carries (00_scope R8, 10_state R11, R12). All values are unsigned (R8). -/

namespace Sys2Proof

/-- One byte on the SPI bus or in a buffer (R52: the unit of every data transfer is the byte). -/
abbrev Byte := BitVec 8

/-- A 32-bit host register: `ADDR` (R11) or `LEN` (R12). -/
abbrev Word32 := BitVec 32

/-- The address bits a frame can name, 0x000000 to 0xFFFFFF (R53). -/
abbrev Addr24 := BitVec 24

end Sys2Proof
end

