-- ==== Sys2Proof/Config.lean ====
section
/-! DEFINITION. What the spec leaves open: the carriers of the opaque handle types (log entry 2), the free
values that answer what nothing constrains (log entry 3), the open parameter `FLASH_SIZE` (log entry 26).
An `opaque` constant has no body: no proof can see what it is, so a claim about it holds whatever it is. -/

namespace Sys2Proof

/-- `BusHandle`, the opaque transport reference (00_scope section 4, R20). DESIGN CHOICE: its values are told
apart by a token; no rule inspects one. Safe (log entry 2). -/
abbrev BusHandle := Nat

/-- `Timeout`, the opaque bounded duration (R20, R171). DESIGN CHOICE: a token, handed to the transport and
never inspected. Safe (log entry 2). -/
abbrev Timeout := Nat

/-- The free answers of the transport: whether the request that draws it is answered `ok` (R45: any request
may be answered `ok` or `fail`); the latch environment's free bits (R66), and its choice of the moment at which an
internal operation completes (R63). Nothing constrains it. -/
opaque Config.freeBit : Nat → Bool

/-- The free bytes of the transport: what an `ok` receive carries where the script fixes nothing (R45: any
`n` bytes), and `LatchEnv`'s draws (R60, R66). Nothing constrains it. -/
opaque Config.freeByte : Nat → Byte

/-- `FLASH_SIZE`, the size of the chip's address space: OPEN, used by no rule of the block (R53, D32); only
the host's duties of Safety.lean speak of it. -/
opaque Config.flashSize : Nat

end Sys2Proof
end

