-- ==== Sys2Proof/Syntax.lean ====
section
/-! DEFINITION. The syntax: the nine operations (00_scope R2), the host's register accesses (10_state R27),
the inputs the outside world gives the machine, and the lines of a host program (30_encoding R84). -/

namespace Sys2Proof

/-- The nine operations of the block, one constructor per row of spec/opcode_table.json (R2). None has an
operand of its own: operations read named registers (R58, R77). -/
inductive Instr where
  | csAssert | csDeassert | verifyId | readStatus | writeEnable | writeDisable
  | chipErase | pageProgram | readData
  deriving DecidableEq, Repr

/-- The nine operations, in the order of R82. -/
def Instr.all : List Instr :=
  [.csAssert, .csDeassert, .verifyId, .readStatus, .writeEnable, .writeDisable,
   .chipErase, .pageProgram, .readData]

/-- `CsLine`: "a (port, pin) pair identifying the GPIO output" (R20); the two numbers are opaque (log entry 2). -/
structure CsLine where
  port : Nat
  pin  : Nat
  deriving DecidableEq, Repr

/-- The eleven host-visible registers and ports of R27. -/
inductive HostReg where
  | opsel | addr | len | result | status | busy | timeout | csLine | bus | txbuf | rxbuf
  deriving DecidableEq, Repr

/-- A value on the host's side of the port: a number, or the opaque pair of `CSLINE`. -/
inductive HostValue where
  | bits (v : Nat)
  | line (l : CsLine)
  deriving DecidableEq, Repr

/-- An access as the host issues it, by register number (R27). `index` is the element of a buffer port; the
other registers have none, and it says nothing for them (log entry 12). -/
inductive RawAccess where
  | write (reg : BitVec 4) (index : Nat) (value : HostValue)
  | read  (reg : BitVec 4) (index : Nat)
  deriving DecidableEq, Repr

/-- An access with its register, width and direction settled (what decoding a `RawAccess` gives). -/
inductive HostAccess where
  | start (code : BitVec 4)
  | writeAddr (v : Word32)
  | writeLen (v : Word32)
  | writeTxbuf (index : Nat) (b : Byte)
  | writeTimeout (t : Timeout)
  | writeCsLine (l : CsLine)
  | writeBus (b : BusHandle)
  | read (r : HostReg)
  | readTxbuf (index : Nat)
  | readRxbuf (index : Nat)
  deriving DecidableEq, Repr

/-- What the outside world does next. Inputs are taken oldest first, one a step. -/
inductive Input where
  /-- The host accesses a register (R27); a write of `OPSEL` starts an operation (R15). -/
  | access (a : RawAccess)
  /-- The host waits until `BUSY = 0` (R84). -/
  | wait
  /-- The sequencer performs one phase, and the next input may land before the phase after it (R152). -/
  | phase
  /-- The reset input is applied and released (R180). -/
  | reset
  /-- The latch environment's own completion step (R63). -/
  | envComplete
  deriving DecidableEq, Repr

/-- The lines of a host program in the syntax of R84, and `wait_ready` of R85. Labels are numbers. -/
inductive Line where
  | op (i : Instr)
  | setAddr (v : Word32)
  | setLen (v : Word32)
  | setTxbuf (bs : List Byte)
  | ifResultNotOk (target : Nat)
  | ifStatusReady (target : Nat)
  | goto (target : Nat)
  | label (l : Nat)
  | waitReady (maxPolls : Nat) (ready fail timeout : Nat)
  deriving DecidableEq, Repr

end Sys2Proof
end

