-- ==== Sys2Proof/WellFormed.lean ====
section
/-! DEFINITION. Which terms of the syntax are well formed: buffer indexes inside their buffers (R13, R27),
program payloads the buffer can hold (R13), branch targets that a line labels (R84). -/

namespace Sys2Proof

/-- Elements of the `TXBUF` port (R13, R27, D29). -/
def txbufSize : Nat := 256

/-- Every operation is well formed: an `OPSEL` code carries no operand that could be wrong (R77, R86). -/
def Instr.wellFormed : Instr → Bool
  | .csAssert => true
  | .csDeassert => true
  | .verifyId => true
  | .readStatus => true
  | .writeEnable => true
  | .writeDisable => true
  | .chipErase => true
  | .pageProgram => true
  | .readData => true

/-- A `TXBUF` index is below 256 (R27); the two buffer ports are accessed by element and not as whole
registers (R27). -/
def HostAccess.wellFormed : HostAccess → Bool
  | .writeTxbuf i _ => i < txbufSize
  | .read r => r != .txbuf && r != .rxbuf
  | .start _ => true
  | .writeAddr _ => true
  | .writeLen _ => true
  | .writeTimeout _ => true
  | .writeCsLine _ => true
  | .writeBus _ => true
  | .readTxbuf _ => true
  | .readRxbuf _ => true

/-- The labels a host program defines (R84). -/
def programLabels : List Line → List Nat
  | [] => []
  | .label l :: rest => l :: programLabels rest
  | _ :: rest => programLabels rest

/-- A line is well formed among `labels`: its targets are labels, its payload fits `TXBUF`. -/
def Line.wellFormed (labels : List Nat) : Line → Bool
  | .op i => i.wellFormed
  | .setAddr _ => true
  | .setLen _ => true
  | .setTxbuf bs => bs.length ≤ txbufSize
  | .ifResultNotOk t => labels.contains t
  | .ifStatusReady t => labels.contains t
  | .goto t => labels.contains t
  | .label _ => true
  | .waitReady _ r f t => labels.contains r && labels.contains f && labels.contains t

/-- A host program is well formed when each line is, and no label is defined twice. -/
def programWellFormed (p : List Line) : Bool :=
  p.all (Line.wellFormed (programLabels p)) && decide (programLabels p).Nodup

end Sys2Proof
end

