-- ==== Sys2Proof/Decode.lean ====
section
/-! DEFINITION. The two encodings of R70: the host command codes (R82) with their decoder and encoder, and the
bus frame headers (R72 to R78) with theirs; then the decoder of a host register access (R27), and the
accesses a host program line stands for (R84). Every decoder is total and rejects by name. -/

namespace Sys2Proof

/-! ### Host command codes (R82, R83) -/

/-- Why a word is no `OPSEL` code. -/
inductive DecodeError where
  /-- No byte was given. -/
  | empty
  /-- A bit above bit 3 is set: `OPSEL` has four bits (R15, R27). -/
  | notFourBits (b : Byte)
  /-- The code is reserved: 0 or 10 to 15 (R83). -/
  | reserved (code : BitVec 4)
  deriving DecidableEq, Repr

/-- One row of the table of R82: `mask` and `pattern` as spec/opcode_table.json gives them. -/
structure OpselRow where
  mask    : BitVec 4
  pattern : BitVec 4
  instr   : Instr
  deriving DecidableEq, Repr

/-- The `OPSEL` codes of R82. -/
def opselTable : List OpselRow :=
  [⟨0xF, 0x1, .csAssert⟩, ⟨0xF, 0x2, .csDeassert⟩, ⟨0xF, 0x3, .verifyId⟩, ⟨0xF, 0x4, .readStatus⟩,
   ⟨0xF, 0x5, .writeEnable⟩, ⟨0xF, 0x6, .writeDisable⟩, ⟨0xF, 0x7, .chipErase⟩,
   ⟨0xF, 0x8, .pageProgram⟩, ⟨0xF, 0x9, .readData⟩]

/-- The operation a 4-bit code names, or the verdict `invalid` of R83. -/
def decodeOpsel (c : BitVec 4) : Except DecodeError Instr :=
  match opselTable.find? (fun r => c &&& r.mask == r.pattern) with
  | some r => .ok r.instr
  | none => .error (.reserved c)

/-- Decode a stream of bytes: a host command is one 4-bit code, in the low bits of its byte (R86). The rest of
the stream is handed back. -/
def decodeBytes : List Byte → Except DecodeError (Instr × List Byte)
  | [] => .error .empty
  | b :: rest =>
    if b.extractLsb' 4 4 = 0 then
      match decodeOpsel (b.extractLsb' 0 4) with
      | .ok i => .ok (i, rest)
      | .error e => .error e
    else .error (.notFourBits b)

/-- The `OPSEL` code of an operation (R82), written from the table of R82. -/
def encode : Instr → BitVec 4
  | .csAssert => 1
  | .csDeassert => 2
  | .verifyId => 3
  | .readStatus => 4
  | .writeEnable => 5
  | .writeDisable => 6
  | .chipErase => 7
  | .pageProgram => 8
  | .readData => 9

/-- The bytes of a host command: its code, zero-extended to a byte. -/
def encodeBytes (i : Instr) : List Byte := [(encode i).setWidth 8]

/-- The bytes of a word of `nbits` bits, the least significant first (at least one byte: bits above `nbits`
are zero). -/
def tableBytes (nbits w : Nat) : List Byte :=
  (List.range (max 1 ((nbits + 7) / 8))).map (fun k => BitVec.ofNat 8 (w / 2 ^ (8 * k)))

/-- The host's question: the operation the decoder reads from a word numbered as spec/opcode_table.json
numbers its bits (log entry 27). -/
def decodeTableWord (nbits w : Nat) : Option Instr :=
  match decodeBytes (tableBytes nbits w) with
  | .ok (i, _) => some i
  | .error _ => none

/-! ### Bus frames (R71 to R81) -/

/-- The 24 address bits a frame carries: bits 31:24 are dropped without any check (R76). -/
def addr24 (a : Word32) : Addr24 := a.extractLsb' 0 24

/-- Address assembly, most significant byte first (R49 b, R76). -/
def be24 (a : Addr24) : List Byte := [a.extractLsb' 16 8, a.extractLsb' 8 8, a.extractLsb' 0 8]

/-- The address three header bytes stand for: the inverse of `be24`. -/
def ofBe24 (a2 a1 a0 : Byte) : Addr24 := a2 ++ a1 ++ a0

/-- `ID_PAD`, the pad bytes of the identity frame (R74, D5). -/
def idPad : List Byte := [0x00, 0x00, 0x00]

/-- The seven frames of R78 by their headers; the two addressed ones carry their address. -/
inductive Header where
  | readId | readStatus | writeEnable | writeDisable | chipErase
  | pageProgram (a : Addr24)
  | readBytes (a : Addr24)
  deriving DecidableEq, Repr

/-- The opcode of a frame, its first byte on the wire (R78). -/
def Header.opcode : Header → Byte
  | .readId => 0x90
  | .readStatus => 0x05
  | .writeEnable => 0x06
  | .writeDisable => 0x04
  | .chipErase => 0x60
  | .pageProgram _ => 0x02
  | .readBytes _ => 0x03

/-- The header bytes of a frame in transmission order (R72 to R75). -/
def Header.bytes : Header → List Byte
  | .readId => Header.opcode .readId :: idPad
  | .readStatus => [Header.opcode .readStatus]
  | .writeEnable => [Header.opcode .writeEnable]
  | .writeDisable => [Header.opcode .writeDisable]
  | .chipErase => [Header.opcode .chipErase]
  | .pageProgram a => Header.opcode (.pageProgram a) :: be24 a
  | .readBytes a => Header.opcode (.readBytes a) :: be24 a

/-- The seven first bytes the block emits, and no other (R80). -/
def knownOpcodes : List Byte := [0x90, 0x05, 0x06, 0x04, 0x60, 0x02, 0x03]

/-- Why a byte sequence is no frame header of R78. -/
inductive HeaderError where
  /-- No byte. -/
  | empty
  /-- The first byte is none of the seven opcodes (R80). -/
  | unknownOpcode (b : Byte)
  /-- The opcode is known and its format has another length or other pad bytes (R72 to R75). -/
  | badFormat (b : Byte)
  deriving DecidableEq, Repr

/-- Read a header back: the first byte alone tells the frames apart (R78), then the format must fit. -/
def decodeHeader : List Byte → Except HeaderError Header
  | [] => .error .empty
  | b :: rest =>
    if b = 0x90 then (if rest = idPad then .ok .readId else .error (.badFormat b))
    else if b = 0x05 then (if rest = [] then .ok .readStatus else .error (.badFormat b))
    else if b = 0x06 then (if rest = [] then .ok .writeEnable else .error (.badFormat b))
    else if b = 0x04 then (if rest = [] then .ok .writeDisable else .error (.badFormat b))
    else if b = 0x60 then (if rest = [] then .ok .chipErase else .error (.badFormat b))
    else if b = 0x02 then
      match rest with
      | [a2, a1, a0] => .ok (.pageProgram (ofBe24 a2 a1 a0))
      | _ => .error (.badFormat b)
    else if b = 0x03 then
      match rest with
      | [a2, a1, a0] => .ok (.readBytes (ofBe24 a2 a1 a0))
      | _ => .error (.badFormat b)
    else .error (.unknownOpcode b)

/-! ### Host register accesses (R27) -/

/-- The register numbers of R27. -/
def HostReg.number : HostReg → BitVec 4
  | .opsel => 0
  | .addr => 1
  | .len => 2
  | .result => 3
  | .status => 4
  | .busy => 5
  | .timeout => 6
  | .csLine => 7
  | .bus => 8
  | .txbuf => 9
  | .rxbuf => 10

/-- The eleven registers of R27, in the order of their numbers. -/
def HostReg.all : List HostReg :=
  [.opsel, .addr, .len, .result, .status, .busy, .timeout, .csLine, .bus, .txbuf, .rxbuf]

/-- The register a number names; 11 to 15 are unassigned (R27). -/
def decodeReg (n : BitVec 4) : Option HostReg := HostReg.all.find? (fun r => r.number == n)

/-- Why an access names nothing the port holds. -/
inductive AccessError where
  /-- The register number is unassigned: 11 to 15 (R27). -/
  | unassigned (n : BitVec 4)
  /-- A write of a register that is read only (R27). -/
  | readOnly (r : HostReg)
  /-- A write of an element the buffer does not have (R13, R27). -/
  | noSuchElement (r : HostReg) (index : Nat)
  /-- A write of what is no value of the register: too wide, or of the wrong kind. -/
  | badValue (r : HostReg)
  deriving DecidableEq, Repr

/-- The number a written value is, if it is one below `bound`. -/
def boundedBits (r : HostReg) (bound : Nat) (v : HostValue) : Except AccessError Nat :=
  match v with
  | .bits n => if n < bound then .ok n else .error (.badValue r)
  | .line _ => .error (.badValue r)

/-- The opaque token a written value is (R20; log entry 2). -/
def tokenOf (r : HostReg) (v : HostValue) : Except AccessError Nat :=
  match v with
  | .bits n => .ok n
  | .line _ => .error (.badValue r)

/-- The line a written value is (R20). -/
def lineOf (r : HostReg) (v : HostValue) : Except AccessError CsLine :=
  match v with
  | .bits _ => .error (.badValue r)
  | .line l => .ok l

/-- A write to register `r` (R27, column "host access"). -/
def decodeWrite (r : HostReg) (index : Nat) (v : HostValue) : Except AccessError HostAccess :=
  match r with
  | .opsel => (boundedBits r (2 ^ 4) v).map fun n => .start (BitVec.ofNat 4 n)
  | .addr => (boundedBits r (2 ^ 32) v).map fun n => .writeAddr (BitVec.ofNat 32 n)
  | .len => (boundedBits r (2 ^ 32) v).map fun n => .writeLen (BitVec.ofNat 32 n)
  | .result => .error (.readOnly r)
  | .status => .error (.readOnly r)
  | .busy => .error (.readOnly r)
  | .timeout => (tokenOf r v).map .writeTimeout
  | .csLine => (lineOf r v).map .writeCsLine
  | .bus => (tokenOf r v).map .writeBus
  | .txbuf =>
    if txbufSize ≤ index then .error (.noSuchElement r index)
    else (boundedBits r (2 ^ 8) v).map fun n => .writeTxbuf index (BitVec.ofNat 8 n)
  | .rxbuf => .error (.readOnly r)

/-- A read of register `r`, or of an element of a buffer port (R27). -/
def decodeRead (r : HostReg) (index : Nat) : HostAccess :=
  match r with
  | .txbuf => .readTxbuf index
  | .rxbuf => .readRxbuf index
  | .opsel => .read r
  | .addr => .read r
  | .len => .read r
  | .result => .read r
  | .status => .read r
  | .busy => .read r
  | .timeout => .read r
  | .csLine => .read r
  | .bus => .read r

/-- Settle a raw access: the register by its number, then direction, element and width (R27). -/
def decodeAccess : RawAccess → Except AccessError HostAccess
  | .write n index v =>
    match decodeReg n with
    | some r => decodeWrite r index v
    | none => .error (.unassigned n)
  | .read n index =>
    match decodeReg n with
    | some r => .ok (decodeRead r index)
    | none => .error (.unassigned n)

/-- The raw access a settled one stands for (R27). -/
def encodeAccess : HostAccess → RawAccess
  | .start c => .write (HostReg.number .opsel) 0 (.bits c.toNat)
  | .writeAddr v => .write (HostReg.number .addr) 0 (.bits v.toNat)
  | .writeLen v => .write (HostReg.number .len) 0 (.bits v.toNat)
  | .writeTxbuf i b => .write (HostReg.number .txbuf) i (.bits b.toNat)
  | .writeTimeout t => .write (HostReg.number .timeout) 0 (.bits t)
  | .writeCsLine l => .write (HostReg.number .csLine) 0 (.line l)
  | .writeBus b => .write (HostReg.number .bus) 0 (.bits b)
  | .read r => .read r.number 0
  | .readTxbuf i => .read (HostReg.number .txbuf) i
  | .readRxbuf i => .read (HostReg.number .rxbuf) i

/-- The host accesses that write a payload to the `TXBUF` port from element `from` on (R84, R27). -/
def txbufWrites (start : Nat) : List Byte → List HostAccess
  | [] => []
  | b :: rest => .writeTxbuf start b :: txbufWrites (start + 1) rest

/-- The register writes a line of a host program stands for (R84 and the encoding columns of P1 to P4); the
control-flow lines and `wait_ready` have none of their own here. -/
def Line.writes : Line → List HostAccess
  | .op i => [.start (encode i)]
  | .setAddr v => [.writeAddr v]
  | .setLen v => [.writeLen v]
  | .setTxbuf bs => txbufWrites 0 bs
  | .ifResultNotOk _ => []
  | .ifStatusReady _ => []
  | .goto _ => []
  | .label _ => []
  | .waitReady _ _ _ _ => []

end Sys2Proof
end

