-- ==== Sys2Proof/Machine/State.lean ====
section
/-! DEFINITION. The machine's state as plain data: every register of 10_state (R10 to R33), the sequencer's
phase and scratch (R22, R23), the bus trace (R46), the environment's answers (R45, R60), and the model's own
fields that INVENTORY.md names; then the reasons a step can stop, and the state after reset (R30). -/

namespace Sys2Proof.Machine

open Sys2Proof

/-- The five result kinds (R160), held in `RESULT` and in the hidden `ERR`. -/
inductive ResultKind where
  | ok | comm | regVerify | idMismatch | param
  deriving DecidableEq, Repr

/-- The sixteen phases of the sequencer (R140). -/
inductive Phase where
  | idle | check | wlSel | wlTx | wlDes | srSel | srTx | srRx | srDes | wlVerify
  | cmdSel | cmdHdr | cmdDtx | cmdDrx | cmdDes | complete
  deriving DecidableEq, Repr

/-- The level of the chip-select line: low selects the chip, high releases the bus (R19). -/
inductive Level where
  | low | high
  deriving DecidableEq, Repr

/-- How much of an operation one step performs: all of it, or one phase (R152, D22; log entry 6). -/
inductive Grain where
  | atomic | phased
  deriving DecidableEq, Repr

/-- The events of the bus trace (R46), each with the handle value the primitive passed on: the line that
`CsSet` drives (R42), the transport and the timeout of a request (R20, R40, R41). -/
inductive Event where
  | cs (line : CsLine) (level : Level)
  | tx (bus : BusHandle) (timeout : Timeout) (bytes : List Byte) (ok : Bool)
  | rx (bus : BusHandle) (timeout : Timeout) (n : Nat) (answer : Option (List Byte))
  deriving DecidableEq, Repr

/-- What the transport oracle does with one request: it answers `ok` (a receive carries bytes) or `fail`
(R40, R41), or it never answers (R150, U15). -/
inductive Answer where
  | ok (bytes : List Byte)
  | fail
  | never
  deriving DecidableEq, Repr

/-- What one request has put into the current chip-select window, as the latch environment sees it (R60). -/
inductive WindowItem where
  | tx (bytes : List Byte)
  | rx (n : Nat)
  deriving DecidableEq, Repr

/-- The optional device-side latch environment `LatchEnv` (R60 to R66). -/
structure LatchEnv where
  /-- `WEL` (R60). -/
  wel : Bool
  /-- `WIP` (R60). -/
  wip : Bool
  /-- What the current window has carried (R60 to R65; log entry 17). -/
  window : List WindowItem
  /-- A request of the current window came while `WIP = 1`: what the chip makes of it is open (R66, R186). -/
  clouded : Bool
  /-- The current window began with the line already low, so without a falling edge: what the chip makes of it is
  outside the source (R93; log entry 33). -/
  noEdge : Bool
  /-- Bytes that settle its draws (log entry 17). -/
  supply : List Byte
  /-- Its own choice, primitive by primitive while `WIP = 1`, whether the internal operation completes just before
  it (R63, R152). DESIGN CHOICE: the choices already settled, and free ones after them (log entry 32). -/
  moments : List Bool
  deriving DecidableEq, Repr

/-- `LatchEnv` as R66 starts it: both bits 0. -/
def LatchEnv.start : LatchEnv :=
  { wel := false, wip := false, window := [], clouded := false, noEdge := false, supply := [], moments := [] }

/-- The environment of the block: the answers already determined, oldest first, the counter of free values
drawn once they run out (the model's own), and the latch environment if it stands in the oracle's place. -/
structure Transport where
  script : List Answer
  draws  : Nat
  env    : Option LatchEnv
  deriving DecidableEq, Repr

/-- The machine. A register that holds no value (R32) is `none`. -/
structure State where
  /-- `OPSEL` (R15): the last code written. -/
  opsel : Option (BitVec 4)
  /-- `ADDR` (R11). -/
  addr : Option Word32
  /-- `LEN` (R12). -/
  len : Option Word32
  /-- `TXBUF` (R13): the elements that hold a value, by rising index. -/
  txbuf : List Host.Cell
  /-- `RESULT` (R16). -/
  result : Option ResultKind
  /-- `STATUS` (R17). -/
  status : Option Byte
  /-- `RXBUF` (R14): a sequence, or no value. -/
  rxbuf : Option (List Byte)
  /-- `BUSY` (R18). -/
  busy : Bool
  /-- `CS_N` (R19). -/
  csN : Level
  /-- `BUS` (R20). -/
  bus : Option BusHandle
  /-- `CSLINE` (R20). -/
  csLine : Option CsLine
  /-- `TIMEOUT` (R20). -/
  timeout : Option Timeout
  /-- `READ_PRE_WREN` (R21), static. -/
  readPreWren : Bool
  /-- `SEQ` (R22). -/
  seq : Phase
  /-- `HDR` (R23), hidden. -/
  hdr : Option (List Byte)
  /-- `SR_TMP` (R23), hidden. -/
  srTmp : Option Byte
  /-- `ID_TMP` (R23), hidden. -/
  idTmp : Option (List Byte)
  /-- `ERR` (R23), hidden. -/
  err : Option ResultKind
  /-- The received bytes of `READ_DATA` until `COMPLETE` (R149). DESIGN CHOICE, safe: log entry 15. -/
  rxTmp : Option (List Byte)
  /-- The bus trace (R46), oldest event first: an observation, read by no rule of the block. -/
  trace : List Event
  /-- The transport and, if present, the latch environment (R45, R60). -/
  transport : Transport
  /-- What the outside world does next, oldest first (log entry 7). -/
  inputs : List Input
  /-- What the last host read returned (log entry 7). -/
  hostData : Option HostValue
  /-- One step per operation or per phase (R152; log entry 6). -/
  grain : Grain
  deriving DecidableEq, Repr

/-- Why the machine stops. -/
inductive Fault where
  /-- A host read of a register, or of a buffer element, that holds no value (R32, R173, U9, U18). Raised by
  `hostRead`, `hostReadTxbuf`, `hostReadRxbuf`, and by `pollOnce`, which reads as a host does, all through `held`.
  Safe: log entries 1, 13. -/
  | readNoValue (r : HostReg)
  /-- The transport never answers a request: stuck (R150, R173, U15). Raised by `settle`. Safe: log entry 5. -/
  | transportSilent
  /-- The sequencer stands in a phase its operation does not have (R142). Raised by `phaseStep` in states no
  run reaches. Safe: log entry 29. -/
  | phaseNotOfOperation
  deriving DecidableEq, Repr

/-- Why a step has no meaning. -/
inductive Refusal where
  /-- An instruction that has no meaning yet. No arm uses it. Safe. -/
  | notModelled (mnemonic : String)
  /-- A start or a register write while `BUSY = 1` (R28, R141). Safe. -/
  | busy
  /-- A reserved `OPSEL` code (R83). Safe. -/
  | reservedOpsel (code : BitVec 4)
  /-- An access to an unassigned register number (R27). Safe. -/
  | unassignedRegister (n : BitVec 4)
  /-- An operation whose operand or handle register holds no value (R32, R173, R182, U18). Raised by `withHandle`,
  `withAddr`, `withLen` and `withPayload`, all through `withOperand`. Safe: log entries 9, 10. -/
  | operandNoValue (r : HostReg)
  deriving DecidableEq, Repr

/-- The outcome of a step of this machine. -/
abbrev Outcome := Host.Outcome State Fault Refusal

/-- The state after reset (R30, R180), with nothing placed: no answers, no inputs (log entries 3, 7, 21). -/
def State.reset : State :=
  { opsel := none, addr := none, len := none, txbuf := [], result := none, status := none,
    rxbuf := none, busy := false, csN := .high, bus := none, csLine := none, timeout := none,
    readPreWren := true, seq := .idle, hdr := none, srTmp := none, idTmp := none, err := some .ok,
    rxTmp := none, trace := [], transport := { script := [], draws := 0, env := none },
    inputs := [], hostData := none, grain := .atomic }

end Sys2Proof.Machine
end

