-- ==== Sys2Proof/Machine/Flags.lean ====
section
/-! DEFINITION. The flags of the design (R24): the two status bits the chip reports (R25, R103), the test of
the latch-and-verify sequence (R109), and the codes of the result kinds (R161) and phases (R140). The block has
no flag register of its own. -/

namespace Sys2Proof.Machine

open Sys2Proof

/-- Bit 0 of a status byte: Write-In-Progress (R25, R103). -/
def statusWip (b : Byte) : Bool := b.getLsbD 0

/-- Bit 1 of a status byte: Write-Enable-Latch (R25, R103). -/
def statusWel (b : Byte) : Bool := b.getLsbD 1

/-- The status byte with bits 1 and 0 as given and bits 7:2 taken from `upper` (R60). -/
def statusByte (upper : Byte) (wel wip : Bool) : Byte :=
  upper.extractLsb' 2 6 ++ BitVec.ofBool wel ++ BitVec.ofBool wip

/-- The verdict of the latch test: only bit 1 is looked at (R109). -/
def latchVerdict (want : Bool) (b : Byte) : ResultKind :=
  if statusWel b = want then .ok else .regVerify

/-- The codes `RESULT` holds (R161). -/
def ResultKind.code : ResultKind → BitVec 3
  | .ok => 0
  | .comm => 1
  | .regVerify => 2
  | .idMismatch => 3
  | .param => 4

/-- The kind a `RESULT` code stands for; 5 to 7 are never written (R161). -/
def ResultKind.ofCode (c : BitVec 3) : Option ResultKind :=
  [ResultKind.ok, .comm, .regVerify, .idMismatch, .param].find? (fun k => k.code == c)

/-- The codes of `SEQ` (R140). -/
def Phase.code : Phase → BitVec 4
  | .idle => 0
  | .check => 1
  | .wlSel => 2
  | .wlTx => 3
  | .wlDes => 4
  | .srSel => 5
  | .srTx => 6
  | .srRx => 7
  | .srDes => 8
  | .wlVerify => 9
  | .cmdSel => 10
  | .cmdHdr => 11
  | .cmdDtx => 12
  | .cmdDrx => 13
  | .cmdDes => 14
  | .complete => 15

/-- The phase a `SEQ` code stands for: all sixteen codes are used (R140). -/
def Phase.ofCode (c : BitVec 4) : Phase :=
  (([Phase.idle, .check, .wlSel, .wlTx, .wlDes, .srSel, .srTx, .srRx, .srDes, .wlVerify, .cmdSel, .cmdHdr,
     .cmdDtx, .cmdDrx, .cmdDes, .complete] : List Phase).find? (fun p => p.code == c)).getD .idle

/-- The bit a chip-select level is on the pin: 0 low, 1 high (R19). -/
def Level.bit : Level → BitVec 1
  | .low => 0
  | .high => 1

/-- The identity bytes the block expects, manufacturer first (R96, R7). -/
def expectedId : List Byte := [0xC2, 0x14]

/-- The verdict of the identity comparison: both bytes, and nothing else (R97). -/
def idVerdict (b : List Byte) : ResultKind := if b = expectedId then .ok else .idMismatch

end Sys2Proof.Machine
end

