-- ==== Sys2Proof/Machine/Transport.lean ====
section
/-! DEFINITION. The environment of the block: the transport oracle that answers `BusTx` and `BusRx` (R40, R41,
R45), and the optional latch environment `LatchEnv` in its place (R60 to R66). The oracle takes its answers
from the script and, once that is used up, from free values (log entry 3). -/

namespace Sys2Proof.Machine

open Sys2Proof

/-- `n` free bytes, the first drawn at counter `c`. -/
def freeBytes (n c : Nat) : List Byte := (List.range n).map (fun k => Config.freeByte (c + k))

/-- Exactly `n` bytes: those of `bs`, completed by free bytes where `bs` is shorter (R41: an `ok` answer
carries `n` bytes; log entry 4). -/
def fitBytes (n c : Nat) (bs : List Byte) : List Byte := bs.take n ++ freeBytes (n - bs.length) c

/-! ### The latch environment (R60 to R66) -/

/-- The completion of the chip's internal operation (R63): `WIP <- 0` and `WEL <- 0`. -/
def LatchEnv.complete (e : LatchEnv) : LatchEnv := { e with wel := false, wip := false }

/-- The environment's own step, allowed just before every primitive (R63, R152): while `WIP = 1` it chooses
whether the internal operation completes now. The choices settled in `moments` come first, then free ones, drawn
at counter `c` (log entry 32). The new counter is handed back. -/
def LatchEnv.breathe (e : LatchEnv) (c : Nat) : LatchEnv × Nat :=
  if e.wip then
    match e.moments with
    | [] => (if Config.freeBit c then e.complete else e, c + 1)
    | m :: rest => ({ (if m then e.complete else e) with moments := rest }, c)
  else (e, c)

/-- The environment takes note of a request in the current window, and of a `WIP` that was 1 then. -/
def LatchEnv.see (w : WindowItem) (e : LatchEnv) : LatchEnv :=
  { e with window := e.window ++ [w], clouded := e.clouded || e.wip }

/-- `n` bytes drawn by the latch environment: from its supply first, then free. -/
def Transport.drawBytes (e : LatchEnv) (n : Nat) (t : Transport) : List Byte × Transport :=
  (fitBytes n t.draws e.supply,
   { t with draws := t.draws + (n - e.supply.length), env := some { e with supply := e.supply.drop n } })

/-- What the environment answers to `BusRx(n)`: its bits to a status read, whatever `WIP` is (R60); the expected
pair to an identity read (R65) no part of which came while `WIP = 1`; any `n` bytes to everything else, an identity
read while `WIP = 1` among it (R66, R186, U12), and in a window without a falling edge to every request (R93). -/
def LatchEnv.answer (e : LatchEnv) (n : Nat) (t : Transport) : Option (List Byte) × Transport :=
  let seen := e.see (.rx n)
  if e.noEdge = false ∧ e.window = [.tx (Header.bytes .readStatus)] ∧ n = 1 then
    let d := t.drawBytes seen 1
    (some (d.1.map (fun b => statusByte b e.wel e.wip)), d.2)
  else if e.noEdge = false ∧ e.window = [.tx (Header.bytes .readId)] ∧ n = 2 ∧ seen.clouded = false then
    (some expectedId, { t with env := some seen })
  else
    let d := t.drawBytes seen n
    (some d.1, d.2)

/-- Whether a window is a program window (header, then payload) or an erase window (R63). -/
def startsOperation (w : List WindowItem) : Bool :=
  match w with
  | [.tx hdr] => hdr == Header.bytes .chipErase
  | [.tx hdr, .tx _] =>
    match decodeHeader hdr with
    | .ok (.pageProgram _) => true
    | _ => false
  | _ => false

/-- Whether a window is the status read's, whose effect R60 gives for either `WIP`, or has carried nothing. -/
def harmlessWindow (w : List WindowItem) : Bool :=
  w == [] || w == [.tx (Header.bytes .readStatus), .rx 1]

/-- The window now closing, or opening, leaves nothing behind. -/
def LatchEnv.freshWindow (e : LatchEnv) : LatchEnv := { e with window := [], clouded := false, noEdge := false }

/-- The two bits of the latch environment set free: what the spec gives no value (log entry 17). -/
def LatchEnv.unknown (e : LatchEnv) (c : Nat) : LatchEnv :=
  { e.freshWindow with wel := Config.freeBit c, wip := Config.freeBit (c + 1) }

/-- What the closing of a window does to `LatchEnv` (R61 to R64). Any frame but a status read that came while
`WIP = 1`, an identity or data read among them, leaves both bits free: what the chip does with it is not in the
source (R66, R186; log entry 17). So does any frame that began without a falling edge (R93; log entry 33). -/
def LatchEnv.close (e : LatchEnv) (c : Nat) : LatchEnv :=
  let closed := e.freshWindow
  if e.noEdge && e.window != [] then e.unknown c
  else if (e.clouded || e.wip) && !harmlessWindow e.window then e.unknown c
  else if e.window = [.tx (Header.bytes .writeEnable)] then { closed with wel := true }
  else if e.window = [.tx (Header.bytes .writeDisable)] then { closed with wel := false }
  else if startsOperation e.window && e.wel then { closed with wip := true }
  else closed

/-! ### The two primitives and the chip-select line, as the environment sees them -/

/-- The answer to `BusTx` (R40). `LatchEnv` answers every `BusTx` with `ok` (R60). A request that is never
answered has no answer: what stands here for it is discarded by `settle`. -/
def Transport.tx (bytes : List Byte) (t : Transport) : Bool × Transport :=
  match t.env with
  | some e =>
    let r := e.breathe t.draws
    (true, { t with env := some (r.1.see (.tx bytes)), draws := r.2 })
  | none =>
    match t.script with
    | [] => (Config.freeBit t.draws, { t with draws := t.draws + 1 })
    | .ok _ :: rest => (true, { t with script := rest })
    | .fail :: rest => (false, { t with script := rest })
    | .never :: rest => (false, { t with script := rest })

/-- The answer to `BusRx(n)` (R41): exactly `n` bytes, or a failure. -/
def Transport.rx (n : Nat) (t : Transport) : Option (List Byte) × Transport :=
  match t.env with
  | some e =>
    let r := e.breathe t.draws
    r.1.answer n { t with draws := r.2 }
  | none =>
    match t.script with
    | [] =>
      (if Config.freeBit t.draws then some (freeBytes n (t.draws + 1)) else none,
       { t with draws := t.draws + 1 + n })
    | .ok bs :: rest =>
      (some (fitBytes n t.draws bs), { t with script := rest, draws := t.draws + (n - bs.length) })
    | .fail :: rest => (none, { t with script := rest })
    | .never :: rest => (none, { t with script := rest })

/-- What driving the line from level `was` to `l` tells the environment: a low level opens a window, without a
falling edge where the line was low already (R93; log entry 33), and a high level closes it. -/
def Transport.select (was l : Level) (t : Transport) : Transport :=
  match t.env with
  | none => t
  | some e =>
    let r := e.breathe t.draws
    match l with
    | .low => { t with env := some { r.1.freshWindow with noEdge := was == .low }, draws := r.2 }
    | .high => { t with env := some (r.1.close r.2), draws := r.2 + 2 }

/-- The environment's completion step as an input of its own (R63); nothing while no operation runs
(log entry 24). -/
def Transport.envComplete (t : Transport) : Transport :=
  match t.env with
  | some e => if e.wip then { t with env := some e.complete } else t
  | none => t

/-- An operation is abandoned by a reset: the chip may have received part of a frame, the first bytes of a window
among them, and its state is any value (R180, U19). -/
def Transport.abandon (t : Transport) : Transport :=
  match t.env with
  | some e => { t with env := some (e.unknown t.draws), draws := t.draws + 2 }
  | none => t

/-- How many requests the script leaves without an answer. -/
def Transport.silences (t : Transport) : Nat := t.script.count .never

/-- Whether a request between `t` and `t'` was never answered (R150). -/
def Transport.fellSilent (t t' : Transport) : Bool :=
  t.script.contains .never && decide (t'.silences < t.silences)

end Sys2Proof.Machine
end

