-- ==== Sys2Proof/Machine/Ops.lean ====
section
/-! DEFINITION. The named operations over buffers and registers: the cells of `TXBUF` (R13, R49), the three
collaborator primitives (R40 to R42), the chip-select window (R47), the frames built from them, the start of an
operation (R141), its end (`complete`, R9, R149) and the abort path (`raise`, R165). The block has no trap and
no return from one (R168): `raise` is what stands in their place. -/

namespace Sys2Proof.Machine

open Sys2Proof

/-! ### Buffer cells -/

/-- The byte at index `i`; an index no cell lists holds no value (R32; log entry 25). -/
def cellRead : List Host.Cell → Nat → Option Byte
  | [], _ => none
  | c :: rest, i => if c.1 = i then some c.2 else cellRead rest i

/-- Store a byte at index `i`, keeping the cells in rising order. -/
def cellWrite : List Host.Cell → Nat → Byte → List Host.Cell
  | [], i, b => [(i, b)]
  | c :: rest, i, b =>
    if i < c.1 then (i, b) :: c :: rest
    else if i = c.1 then (i, b) :: rest
    else c :: cellWrite rest i b

/-- The cells `start, start + 1, ...` hold a value for `n` indexes, and these are the bytes (R13). -/
def cellSlice (m : List Host.Cell) : Nat → Nat → Option (List Byte)
  | _, 0 => some []
  | start, n + 1 =>
    match cellRead m start with
    | none => none
    | some b =>
      match cellSlice m (start + 1) n with
      | none => none
      | some bs => some (b :: bs)

/-- The canonical form of a buffer of `size` elements: indexes strictly rising, all below `size`. An unlisted
index reads as no value, so no cell can repeat what an unlisted one reads as. -/
def Memory.wf (size : Nat) (m : List Host.Cell) : Bool :=
  decide (m.Pairwise (fun c d => c.1 < d.1)) && m.all (fun c => decide (c.1 < size))

/-! ### Collaborator primitives -/

/-- The device handle, "supplied by the caller and passed to every operation" (R20). -/
structure Handle where
  bus     : BusHandle
  csLine  : CsLine
  timeout : Timeout
  deriving DecidableEq, Repr

/-- `CsSet(level)` (R42): drive the handle's line, record the event. It sets a level and cannot fail. -/
def State.csSet (h : Handle) (l : Level) (s : State) : State :=
  { s with csN := l, trace := s.trace ++ [.cs h.csLine l], transport := s.transport.select s.csN l }

/-- `BusTx(bytes)` (R40): hand the bytes and the timeout to the transport, record its answer. -/
def State.busTx (h : Handle) (bytes : List Byte) (s : State) : Bool × State :=
  let r := s.transport.tx bytes
  (r.1, { s with transport := r.2, trace := s.trace ++ [.tx h.bus h.timeout bytes r.1] })

/-- `BusRx(n)` (R41): one request for `n` bytes, record its answer. -/
def State.busRx (h : Handle) (n : Nat) (s : State) : Option (List Byte) × State :=
  let r := s.transport.rx n
  (r.1, { s with transport := r.2, trace := s.trace ++ [.rx h.bus h.timeout n r.1] })

/-- One chip-select window (R47): the line goes low, the frame's primitives run, the line goes high on every
path. -/
def window {α : Type} (h : Handle) (body : State → α × State) (s : State) : α × State :=
  let r := body (s.csSet h .low)
  (r.1, r.2.csSet h .high)

/-- Header out, then `n` bytes in; a failed transmit skips the receive (R96, R102, R132). -/
def sendReceive (h : Handle) (hdr : List Byte) (n : Nat) (s : State) : Option (List Byte) × State :=
  let t := s.busTx h hdr
  if t.1 then t.2.busRx h n else (none, t.2)

/-- Header out, then payload out; a failed header skips the payload (R124). -/
def sendSend (h : Handle) (hdr payload : List Byte) (s : State) : Bool × State :=
  let t := s.busTx h hdr
  if t.1 then t.2.busTx h payload else (false, t.2)

/-- `MemRead(addr, n)` (R9, R132): the read frame in its window. -/
def memRead (h : Handle) (a : Addr24) (n : Nat) (s : State) : Option (List Byte) × State :=
  window h (sendReceive h (Header.bytes (.readBytes a)) n) s

/-- `MemWrite(addr, n, v)` (R9, R124): the program frame in its window. -/
def memWrite (h : Handle) (a : Addr24) (v : List Byte) (s : State) : Bool × State :=
  window h (sendSend h (Header.bytes (.pageProgram a)) v) s

/-- `ReadStatusSeq` (R102): the status frame in its window, and the one byte received. -/
def readStatusSeq (h : Handle) (s : State) : Option Byte × State :=
  let r := window h (sendReceive h (Header.bytes .readStatus) 1) s
  (r.1.bind List.head?, r.2)

/-- `LatchSeq(op, want)` (R109): command window, status window, test of bit 1. `cmd` is the header of 0x06 or
0x04. A failed command skips the status read; nothing is repeated. -/
def latchSeq (h : Handle) (cmd : Header) (want : Bool) (s : State) : ResultKind × State :=
  let t := window h (State.busTx h cmd.bytes) s
  if t.1 then
    let q := readStatusSeq h t.2
    match q.1 with
    | none => (.comm, q.2)
    | some b => (latchVerdict want b, { q.2 with srTmp := some b })
  else (.comm, t.2)

/-- `WriteEnableSeq = LatchSeq(0x06, 1)` (R109). -/
def writeEnableSeq (h : Handle) (s : State) : ResultKind × State := latchSeq h .writeEnable true s

/-- `WriteDisableSeq = LatchSeq(0x04, 0)` (R109). -/
def writeDisableSeq (h : Handle) (s : State) : ResultKind × State := latchSeq h .writeDisable false s

/-! ### Start and end of an operation -/

/-- An operation is running: `BUSY = 1`, or `SEQ` is not `IDLE` (R18, R22, R28, R141; log entry 16). -/
def State.running (s : State) : Bool := s.busy || s.seq != .idle

/-- The start of an operation (R141): `OPSEL` holds the code written, `BUSY <- 1`, `ERR <- OK`. -/
def State.begin (i : Instr) (s : State) : State :=
  { s with opsel := some (encode i), busy := true, err := some .ok }

/-- Back to idle: hidden scratch holds no value, `BUSY <- 0`, `SEQ <- IDLE` (R23, R90, R149). -/
def State.toIdle (s : State) : State :=
  { s with busy := false, seq := .idle, hdr := none, srTmp := none, idTmp := none, err := none, rxTmp := none }

/-- `return <Kind>` (R9): `RESULT` is written, once, and the block is idle (R16, R149). -/
def State.complete (k : ResultKind) (s : State) : State := { s.toIdle with result := some k }

/-- `raise <Kind>` (R9, R165): the abort path. The failing window has been closed by `window` (or was never
opened); no later window opens; the operation ends through `complete`. Nothing is saved and control goes
nowhere but back to idle. -/
def State.raise (k : ResultKind) (s : State) : State := { s with err := some k }.complete k

/-- What an operation answers: the state it ends in, unless one of its requests was never answered, in which
case the block is stuck (R150, R173, U15; log entry 5). `s` is the state before, `t` the state after. -/
def settle (s t : State) : Outcome :=
  if s.transport.fellSilent t.transport then .fault .transportSilent else .next t

end Sys2Proof.Machine
end

