-- ==== Sys2Proof/Machine/Operands.lean ====
section
/-! DEFINITION. The operands of an operation: the device handle (R20, R182), `ADDR` and `LEN` (R11, R12), the
payload `TXBUF[0 .. LEN-1]` (R13), and the parameter checks of `PAGE_PROGRAM` (R121, R122). An operation whose
operands hold no value is refused at its start (R32, R182, U18; log entries 9, 10). -/

namespace Sys2Proof.Machine

open Sys2Proof

/-- Go on with what operand or handle register `r` holds. Where it holds no value the operation is refused, by the
spec's own words: "An operation that would read an operand holding no value [...] is refused by the model" (10_state
R32), "Starting an operation while any handle register holds no value is refused" (R182; R173, U18; vectors V8.7,
V8.8). -/
def withOperand {α : Type} (r : HostReg) (x : Option α) (k : α → Outcome) : Outcome :=
  match x with
  | none => .refused (.operandNoValue r)
  | some v => k v

/-- Go on with the handle, or refuse (R182). -/
def withHandle (s : State) (k : Handle → Outcome) : Outcome :=
  withOperand .bus s.bus fun b =>
    withOperand .csLine s.csLine fun l =>
      withOperand .timeout s.timeout fun t => k { bus := b, csLine := l, timeout := t }

/-- Go on with the handle from the idle state; a start while an operation runs is refused (R28, R141). -/
def withIdleHandle (s : State) (k : Handle → Outcome) : Outcome :=
  if s.running then .refused .busy else withHandle s k

/-- Go on with `ADDR`, or refuse (R32). -/
def withAddr (s : State) (k : Word32 → Outcome) : Outcome := withOperand .addr s.addr k

/-- Go on with `LEN`, or refuse (R32). -/
def withLen (s : State) (k : Word32 → Outcome) : Outcome := withOperand .len s.len k

/-- Go on with `ADDR` and `LEN`, or refuse (R32). -/
def withAddrLen (s : State) (k : Word32 → Word32 → Outcome) : Outcome :=
  withAddr s fun a => withLen s fun n => k a n

/-- Go on with the payload `TXBUF[0 .. n-1]`, or refuse when an element holds no value (R13, R32). -/
def withPayload (s : State) (n : Word32) (k : List Byte → Outcome) : Outcome :=
  withOperand .txbuf (cellSlice s.txbuf 0 n.toNat) k

/-- The page size ceiling of one program (R121). -/
def pageSize : Nat := 256

/-- The length check (R121), on `LEN` alone. -/
def lengthError (n : Word32) : Bool := decide (pageSize < n.toNat)

/-- The full-page alignment check (R122): only bits 7:0 of `ADDR`, only for `LEN = 256`. -/
def alignError (a n : Word32) : Bool := decide (n.toNat = pageSize) && a.extractLsb' 0 8 != 0

/-- `ADDR` and `LEN` are read (R120, R29), then checked in the order of R121 and R122: `bad` where a check fails,
else on with both. -/
def withProgramParams (s : State) (bad : Outcome) (good : Word32 → Word32 → Outcome) : Outcome :=
  withAddrLen s fun a n =>
    if lengthError n then bad
    else if alignError a n then bad
    else good a n

end Sys2Proof.Machine
end

