-- ==== Sys2Proof/Machine/ChipErase.lean ====
section
/-! DEFINITION. `CHIP_ERASE` (44_chip_erase R116 to R119). -/

namespace Sys2Proof.Machine

open Sys2Proof

/-- The pseudocode of `CHIP_ERASE` (R117): a verified write-enable, then the erase frame; an inner failure
ends the operation with the inner kind (R113). -/
def runChipErase (h : Handle) (s : State) : State :=
  let e := writeEnableSeq h s
  if e.1 = .ok then
    let t := window h (State.busTx h (Header.bytes .chipErase)) e.2
    if t.1 then t.2.complete .ok else t.2.raise .comm
  else e.2.raise e.1

/-- `CHIP_ERASE` (R117). -/
def execChipErase (s : State) : Outcome :=
  withIdleHandle s fun h => settle s (runChipErase h (s.begin .chipErase))

end Sys2Proof.Machine
end

