-- ==== Sys2Proof/Machine/ChipSelect.lean ====
section
/-! DEFINITION. The chip-select primitives `CS_ASSERT` and `CS_DEASSERT` (40_chip_select R90 to R93). -/

namespace Sys2Proof.Machine

open Sys2Proof

/-- `CS_ASSERT` (R90): the line goes low; `RESULT` is not written. -/
def execCsAssert (s : State) : Outcome :=
  withIdleHandle s fun h => .next ((s.begin .csAssert).csSet h .low).toIdle

/-- `CS_DEASSERT` (R91): the line goes high; `RESULT` is not written. -/
def execCsDeassert (s : State) : Outcome :=
  withIdleHandle s fun h => .next ((s.begin .csDeassert).csSet h .high).toIdle

end Sys2Proof.Machine
end

