-- ==== Sys2Proof/Machine/Identity.lean ====
section
/-! DEFINITION. Identity verification `VERIFY_ID` (41_identity R95 to R98). -/

namespace Sys2Proof.Machine

open Sys2Proof

/-- The pseudocode of `VERIFY_ID` (R96), from its start on. -/
def runVerifyId (h : Handle) (s : State) : State :=
  let r := window h (sendReceive h (Header.bytes .readId) 2) { s with hdr := some (Header.bytes .readId) }
  match r.1 with
  | none => r.2.raise .comm
  | some b => { r.2 with idTmp := some b }.complete (idVerdict b)

/-- `VERIFY_ID` (R96). -/
def execVerifyId (s : State) : Outcome :=
  withIdleHandle s fun h => settle s (runVerifyId h (s.begin .verifyId))

end Sys2Proof.Machine
end

