-- ==== Sys2Proof/Machine/PageProgram.lean ====
section
/-! DEFINITION. `PAGE_PROGRAM` (45_page_program R120 to R129). -/

namespace Sys2Proof.Machine

open Sys2Proof

/-- The pseudocode of `PAGE_PROGRAM` after its checks (R123 to R126): write-enable, program frame, and the
advance of `ADDR` by `LEN` modulo 2^32, on success only. -/
def runPageProgram (h : Handle) (a n : Word32) (v : List Byte) (s : State) : State :=
  let e := writeEnableSeq h s
  if e.1 = .ok then
    let t := memWrite h (addr24 a) v { e.2 with hdr := some (Header.bytes (.pageProgram (addr24 a))) }
    if t.1 then { t.2 with addr := some (a + n) }.complete .ok else t.2.raise .comm
  else e.2.raise e.1

/-- `PAGE_PROGRAM` (R120): refused without `ADDR` or `LEN` (R32, V8.7); the parameter checks come before any event
(R121, R122), and a payload element without a value is refused only when they pass (R13, R29). -/
def execPageProgram (s : State) : Outcome :=
  withIdleHandle s fun h =>
    withProgramParams s (.next ((s.begin .pageProgram).raise .param)) fun a n =>
      withPayload s n fun v => settle s (runPageProgram h a n v (s.begin .pageProgram))

end Sys2Proof.Machine
end

