-- ==== Sys2Proof/Machine/ReadData.lean ====
section
/-! DEFINITION. `READ_DATA` (46_read_data R130 to R137). -/

namespace Sys2Proof.Machine

open Sys2Proof

/-- The read frame and the end of `READ_DATA` (R132, R135). -/
def runReadFrame (h : Handle) (a n : Word32) (s : State) : State :=
  let r := memRead h (addr24 a) n.toNat { s with hdr := some (Header.bytes (.readBytes (addr24 a))) }
  match r.1 with
  | some b => { r.2 with rxbuf := some b }.complete .ok
  | none => { r.2 with rxbuf := none }.raise .comm

/-- The pseudocode of `READ_DATA` (R130): the write-enable only when `READ_PRE_WREN = 1` (R131). -/
def runReadData (h : Handle) (a n : Word32) (s : State) : State :=
  if s.readPreWren then
    let e := writeEnableSeq h s
    if e.1 = .ok then runReadFrame h a n e.2
    else { e.2 with rxbuf := none }.raise e.1
  else runReadFrame h a n s

/-- `READ_DATA` (R130). -/
def execReadData (s : State) : Outcome :=
  withIdleHandle s fun h => withAddrLen s fun a n => settle s (runReadData h a n (s.begin .readData))

end Sys2Proof.Machine
end

