-- ==== Sys2Proof/Machine/Status.lean ====
section
/-! DEFINITION. The status read `READ_STATUS` (42_status R100 to R103). -/

namespace Sys2Proof.Machine

open Sys2Proof

/-- The pseudocode of `READ_STATUS` (R101): the byte goes to `STATUS`, or `STATUS` holds no value. -/
def runReadStatus (h : Handle) (s : State) : State :=
  let q := readStatusSeq h s
  match q.1 with
  | some b => { q.2 with status := some b }.complete .ok
  | none => { q.2 with status := none }.raise .comm

/-- `READ_STATUS` (R101). -/
def execReadStatus (s : State) : Outcome :=
  withIdleHandle s fun h => settle s (runReadStatus h (s.begin .readStatus))

end Sys2Proof.Machine
end

