-- ==== Sys2Proof/Machine/WriteLatch.lean ====
section
/-! DEFINITION. The write-enable latch protocol `WRITE_ENABLE`, `WRITE_DISABLE` (43_write_latch R107 to R114). -/

namespace Sys2Proof.Machine

open Sys2Proof

/-- The pseudocode of `WRITE_ENABLE` (R108): its result is that of `WriteEnableSeq`. -/
def runWriteEnable (h : Handle) (s : State) : State :=
  let e := writeEnableSeq h s
  e.2.complete e.1

/-- The pseudocode of `WRITE_DISABLE` (R111). -/
def runWriteDisable (h : Handle) (s : State) : State :=
  let e := writeDisableSeq h s
  e.2.complete e.1

/-- `WRITE_ENABLE` (R108). -/
def execWriteEnable (s : State) : Outcome :=
  withIdleHandle s fun h => settle s (runWriteEnable h (s.begin .writeEnable))

/-- `WRITE_DISABLE` (R111). -/
def execWriteDisable (s : State) : Outcome :=
  withIdleHandle s fun h => settle s (runWriteDisable h (s.begin .writeDisable))

end Sys2Proof.Machine
end

