-- ==== Sys2Proof/Machine/Dispatch.lean ====
section
/-! DEFINITION. One arm per operation: the start of operation `i` by the host's write of its `OPSEL` code, and
all of its effect (R15, R152). -/

namespace Sys2Proof.Machine
open Sys2Proof

def exec (i : Instr) (s : State) : Host.Outcome State Fault Refusal :=
  match i with
  | .csAssert => Sys2Proof.Machine.execCsAssert s
  | .csDeassert => Sys2Proof.Machine.execCsDeassert s
  | .verifyId => Sys2Proof.Machine.execVerifyId s
  | .readStatus => Sys2Proof.Machine.execReadStatus s
  | .writeEnable => Sys2Proof.Machine.execWriteEnable s
  | .writeDisable => Sys2Proof.Machine.execWriteDisable s
  | .chipErase => Sys2Proof.Machine.execChipErase s
  | .pageProgram => Sys2Proof.Machine.execPageProgram s
  | .readData => Sys2Proof.Machine.execReadData s

end Sys2Proof.Machine
end

