-- ==== Sys2Proof/Machine/Sequencer.lean ====
section
/-! DEFINITION. The sequencer phase by phase (47_sequencer_fsm R140 to R152, 43_write_latch R114): the same
operations as the family files, one phase a step, so that an environment's step can land between any two
primitives (R152) and a reset can abandon an operation where it stands (R180). -/

namespace Sys2Proof.Machine

open Sys2Proof

/-- The first phase of an operation (R142); `pre` is `READ_PRE_WREN`. -/
def firstPhase (i : Instr) (pre : Bool) : Phase :=
  match i with
  | .csAssert => .cmdSel
  | .csDeassert => .cmdDes
  | .verifyId => .cmdSel
  | .readStatus => .srSel
  | .writeEnable => .wlSel
  | .writeDisable => .wlSel
  | .chipErase => .wlSel
  | .pageProgram => .check
  | .readData => if pre then .wlSel else .cmdSel

/-- The latch command an operation sends in `WL_TX` and the level it wants in `WL_VERIFY` (R114, R142). -/
def latchCommand (i : Instr) : Header × Bool :=
  match i with
  | .writeDisable => (.writeDisable, false)
  | _ => (.writeEnable, true)

/-- The phase after a good status window (R142). -/
def afterStatus (i : Instr) : Phase :=
  match i with
  | .readStatus => .complete
  | _ => .wlVerify

/-- The phase after a good verification: a composite operation goes on to its own frame (R114). -/
def afterVerify (i : Instr) : Phase :=
  match i with
  | .writeEnable => .complete
  | .writeDisable => .complete
  | _ => .cmdSel

/-- The phase after a good header transmit (R142). -/
def afterHeader (i : Instr) : Phase :=
  match i with
  | .pageProgram => .cmdDtx
  | .verifyId => .cmdDrx
  | .readData => .cmdDrx
  | _ => .cmdDes

/-- The content of `HDR` (R147), assembled from the current `ADDR`; operations without a frame of their own
have none. -/
def headerOf (i : Instr) (s : State) : Option Header :=
  match i with
  | .verifyId => some .readId
  | .chipErase => some .chipErase
  | .pageProgram => s.addr.map fun a => .pageProgram (addr24 a)
  | .readData => s.addr.map fun a => .readBytes (addr24 a)
  | _ => none

/-- Move to a phase. -/
def State.goto (p : Phase) (s : State) : State := { s with seq := p }

/-- A failure edge: `ERR` takes the kind, and the sequencer goes to the given phase (R143, R144). -/
def State.failTo (p : Phase) (k : ResultKind) (s : State) : State := { s with err := some k, seq := p }

/-- Exit after a window: on to `p` while `ERR = OK`, else to `COMPLETE` (R144). -/
def State.leaveWindow (p : Phase) (s : State) : State :=
  { s with seq := if s.err = some .ok then p else .complete }

/-- The actions of `COMPLETE` (R149), one indivisible step. -/
def completePhase (i : Instr) (s : State) : Outcome :=
  match s.err with
  | none => .fault .phaseNotOfOperation
  | some e =>
    match i with
    | .verifyId =>
      .next (s.complete (if e = ResultKind.ok ∧ s.idTmp ≠ some expectedId then .idMismatch else e))
    | .readStatus =>
      .next ({ s with status := if e = ResultKind.ok then s.srTmp else none }.complete e)
    | .pageProgram =>
      if e = ResultKind.ok then withAddrLen s fun a n => .next ({ s with addr := some (a + n) }.complete e)
      else .next (s.complete e)
    | .readData =>
      .next ({ s with rxbuf := if e = ResultKind.ok then s.rxTmp else none }.complete e)
    | .csAssert => .fault .phaseNotOfOperation
    | .csDeassert => .fault .phaseNotOfOperation
    | .writeEnable => .next (s.complete e)
    | .writeDisable => .next (s.complete e)
    | .chipErase => .next (s.complete e)

/-- `BusTx` as a phase: on to `p` on `ok`, to the window's deassert phase `d` with `COMM` on `fail` (R143). -/
def txPhase (h : Handle) (bytes : List Byte) (p d : Phase) (s : State) : Outcome :=
  let t := s.busTx h bytes
  settle s (if t.1 then t.2.goto p else t.2.failTo d .comm)

/-- `BusRx` as a phase: `keep` stores the bytes on `ok`; both outcomes go to the deassert phase `d` (R143). -/
def rxPhase (h : Handle) (n : Nat) (keep : List Byte → State → State) (d : Phase) (s : State) : Outcome :=
  let r := s.busRx h n
  settle s (match r.1 with
    | some b => (keep b r.2).goto d
    | none => r.2.failTo d .comm)

/-- One phase of operation `i` (R140 to R149, R114). -/
def phaseOf (h : Handle) (i : Instr) (s : State) : Outcome :=
  match s.seq with
  | .idle => .next s
  | .check =>
    withProgramParams s (.next (s.failTo .complete .param)) fun _ _ => .next (s.goto .wlSel)
  | .wlSel => .next ((s.csSet h .low).goto .wlTx)
  | .wlTx => txPhase h (latchCommand i).1.bytes .wlDes .wlDes s
  | .wlDes => .next ((s.csSet h .high).leaveWindow .srSel)
  | .srSel => .next ((s.csSet h .low).goto .srTx)
  | .srTx => txPhase h (Header.bytes .readStatus) .srRx .srDes s
  | .srRx => rxPhase h 1 (fun b t => { t with srTmp := b.head? }) .srDes s
  | .srDes => .next ((s.csSet h .high).leaveWindow (afterStatus i))
  | .wlVerify =>
    match s.srTmp with
    | none => .fault .phaseNotOfOperation
    | some b =>
      .next (if latchVerdict (latchCommand i).2 b = .ok then s.goto (afterVerify i)
        else s.failTo .complete .regVerify)
  | .cmdSel =>
    if i = .csAssert then .next (s.csSet h .low).toIdle
    else
      match headerOf i s with
      | none => .fault .phaseNotOfOperation
      | some hd => .next (({ s with hdr := some hd.bytes }.csSet h .low).goto .cmdHdr)
  | .cmdHdr =>
    match s.hdr with
    | none => .fault .phaseNotOfOperation
    | some b => txPhase h b (afterHeader i) .cmdDes s
  | .cmdDtx => withLen s fun n => withPayload s n fun v => txPhase h v .cmdDes .cmdDes s
  | .cmdDrx =>
    match i with
    | .verifyId => rxPhase h 2 (fun b t => { t with idTmp := some b }) .cmdDes s
    | .readData =>
      withLen s fun n => rxPhase h n.toNat (fun b t => { t with rxTmp := some b }) .cmdDes s
    | _ => .fault .phaseNotOfOperation
  | .cmdDes =>
    if i = .csDeassert then .next (s.csSet h .high).toIdle
    else .next ((s.csSet h .high).leaveWindow .complete)
  | .complete => completePhase i s

/-- One phase of the operation `OPSEL` names (R141: sampled at the start, unchanged while `BUSY = 1`). -/
def phaseStep (s : State) : Outcome :=
  withHandle s fun h =>
    match s.opsel.map decodeOpsel with
    | some (.ok i) => phaseOf h i s
    | _ => .fault .phaseNotOfOperation

/-- The start of an operation phase by phase (R141): the operands must hold values, as for `exec`; then `SEQ`
takes the operation's first phase. -/
def startPhases (i : Instr) (s : State) : Outcome :=
  let entered := (s.begin i).goto (firstPhase i s.readPreWren)
  withIdleHandle s fun _ =>
    match i with
    | .pageProgram =>
      withProgramParams s (.next entered) fun _ n => withPayload s n fun _ => .next entered
    | .readData => withAddrLen s fun _ _ => .next entered
    | _ => .next entered

/-- At most `k` phases, stopping at `IDLE`. -/
def runPhases : Nat → State → Outcome
  | 0, s => .next s
  | k + 1, s =>
    if s.seq = .idle then .next s
    else
      match phaseStep s with
      | .next t => runPhases k t
      | .fault f => .fault f
      | .refused r => .refused r

/-- The most phases an operation has (R150). -/
def maxPhases : Nat := 14

end Sys2Proof.Machine
end

