-- ==== Sys2Proof/Machine/HostPort.lean ====
section
/-! DEFINITION. The host port: register reads and writes by number (10_state R27 to R32), and the start of an
operation by a write of `OPSEL` (R15, R82, R83). -/

namespace Sys2Proof.Machine

open Sys2Proof

/-- Start the operation a code names (R15, R141): a reserved code starts nothing (R83). In the atomic grain the
operation runs to its end, in the phased grain it stands at its first phase (R152). -/
def startOperation (c : BitVec 4) (s : State) : Outcome :=
  if s.running then .refused .busy
  else
    match decodeOpsel c with
    | .error _ => .refused (.reservedOpsel c)
    | .ok i =>
      match s.grain with
      | .atomic => exec i s
      | .phased => startPhases i s

/-- A host write of a register takes effect only while no operation runs (R28). -/
def whileIdle (s : State) (t : State) : Outcome := if s.running then .refused .busy else .next t

/-- The value a scalar register holds, as the host reads it (R27); `none` is no value (R32). -/
def regValue (r : HostReg) (s : State) : Option HostValue :=
  match r with
  | .opsel => s.opsel.map fun c => .bits c.toNat
  | .addr => s.addr.map fun a => .bits a.toNat
  | .len => s.len.map fun n => .bits n.toNat
  | .result => s.result.map fun k => .bits k.code.toNat
  | .status => s.status.map fun b => .bits b.toNat
  | .busy => some (.bits s.busy.toNat)
  | .timeout => s.timeout.map fun t => .bits t
  | .csLine => s.csLine.map fun l => .line l
  | .bus => s.bus.map fun b => .bits b
  | .txbuf => none
  | .rxbuf => none

/-- The registers whose reads return no value while `BUSY = 1` (R28). -/
def hiddenWhileBusy (r : HostReg) : Bool := r == .result || r == .status || r == .rxbuf

/-- Go on with what register `r`, or an element of it, holds. Where it holds no value the model stops, by the spec's
own words: "a host read of it is a model fault, never a zero and never the previous value" (10_state R32; R173, D8,
D15, U9, U18; vectors V8.4 to V8.6). -/
def held {α β : Type} (r : HostReg) (x : Option β) (k : β → Host.Outcome α Fault Refusal) :
    Host.Outcome α Fault Refusal :=
  match x with
  | none => .fault (.readNoValue r)
  | some v => k v

/-- A host read that returns no value, and is no fault. -/
def returnNothing (s : State) : Outcome := .next { s with hostData := none }

/-- A host read of a scalar register: a fault where it holds no value (R32, R173). While an operation runs a read
of a hidden one returns no value (R28; log entry 11). -/
def hostRead (r : HostReg) (s : State) : Outcome :=
  if hiddenWhileBusy r && s.running then returnNothing s
  else held r (regValue r s) fun v => .next { s with hostData := some v }

/-- A host read of element `i` of `TXBUF`: a fault where the element holds no value (R32). R27 gives the port no
read, so one that finds a value returns none (log entry 12). -/
def hostReadTxbuf (i : Nat) (s : State) : Outcome := held .txbuf (cellRead s.txbuf i) fun _ => returnNothing s

/-- A host read of element `i` of `RXBUF` (R27, R14). An element the sequence does not have holds no value
(R32; log entry 13); while an operation runs the read returns no value (R28; log entry 11). -/
def hostReadRxbuf (i : Nat) (s : State) : Outcome :=
  if s.running then returnNothing s
  else held .rxbuf s.rxbuf fun bs => held .rxbuf bs[i]? fun b => .next { s with hostData := some (.bits b.toNat) }

/-- A write that names nothing the port holds stores nothing (log entry 12); like every write it is refused while an
operation runs (R28). -/
def discardWrite (s : State) : Outcome := whileIdle s s

/-- A settled access (R27, R28). -/
def hostPerform (a : HostAccess) (s : State) : Outcome :=
  match a with
  | .start c => startOperation c s
  | .writeAddr v => whileIdle s { s with addr := some v }
  | .writeLen v => whileIdle s { s with len := some v }
  | .writeTxbuf i b =>
    if i < txbufSize then whileIdle s { s with txbuf := cellWrite s.txbuf i b } else discardWrite s
  | .writeTimeout t => whileIdle s { s with timeout := some t }
  | .writeCsLine l => whileIdle s { s with csLine := some l }
  | .writeBus b => whileIdle s { s with bus := some b }
  | .read r => hostRead r s
  | .readTxbuf i => hostReadTxbuf i s
  | .readRxbuf i => hostReadRxbuf i s

/-- An access as the host issues it. An unassigned number is refused (R27), every write while an operation runs too
(R28); a write that the port has no place for stores nothing (log entry 12). -/
def hostAccess (a : RawAccess) (s : State) : Outcome :=
  match decodeAccess a with
  | .ok p => hostPerform p s
  | .error (.unassigned n) => .refused (.unassignedRegister n)
  | .error (.readOnly _) => discardWrite s
  | .error (.noSuchElement _ _) => discardWrite s
  | .error (.badValue _) => discardWrite s

/-- Several accesses, one after another, stopping at the first that stops. -/
def hostPerformAll : List HostAccess → State → Outcome
  | [], s => .next s
  | a :: rest, s =>
    match hostPerform a s with
    | .next t => hostPerformAll rest t
    | .fault f => .fault f
    | .refused r => .refused r

end Sys2Proof.Machine
end

