-- ==== Sys2Proof/Machine/Inputs.lean ====
section
/-! DEFINITION. What one input does (70_reset_and_hazards R180, R181; 10_state R28, R30; 20_memory R63; 30_encoding
R84), and the fetch of the next one. -/

namespace Sys2Proof.Machine

open Sys2Proof

/-- The reset input (R180, R181): every register of the block goes to its reset value, `CS_N` goes high with no
event, an operation in progress is abandoned. The transport, the chip and what the outside world does next are
not reset; the trace is an observation and stays. An operation the reset cut short leaves the chip in any state
(U19). -/
def State.applyReset (s : State) : State :=
  { State.reset with
    readPreWren := s.readPreWren, trace := s.trace, grain := s.grain, inputs := s.inputs,
    transport := if s.running then s.transport.abandon else s.transport }

/-- The environment's own step (R63). -/
def State.envStep (s : State) : State := { s with transport := s.transport.envComplete }

/-- One input. `rest` is the state with the input taken, `s` the state before. A waiting host lets the sequencer
run one phase and keeps waiting while `BUSY = 1` (R84). -/
def takeInput (inp : Input) (s rest : State) : Outcome :=
  match inp with
  | .access a => hostAccess a rest
  | .wait => if s.running then phaseStep s else .next rest
  | .phase => if s.running then phaseStep rest else .next rest
  | .reset => .next rest.applyReset
  | .envComplete => .next rest.envStep

/-- The step without an input: the sequencer runs on, or the block waits at `IDLE` (R30; log entry 22). -/
def noInput (s : State) : Outcome := if s.running then phaseStep s else .next s

/-- One step: the oldest input, or none. -/
def stepInputs (s : State) : Outcome :=
  match s.inputs with
  | [] => noInput s
  | inp :: rest => takeInput inp s { s with inputs := rest }

/-- The host's set-up before the first operation (R182): handle and operand registers that hold no value are
written. The values are tokens of the model's own (log entry 8). -/
def State.launch (s : State) : State :=
  { s with
    bus := some (s.bus.getD 0), csLine := some (s.csLine.getD { port := 0, pin := 0 }),
    timeout := some (s.timeout.getD 0), addr := some (s.addr.getD 0), len := some (s.len.getD 0) }

/-- The write of `OPSEL` by which the host names the operation of a word (R15); the value is the word's first
byte, as the decoder reads it. -/
def opselWrite (nbits w : Nat) : Input :=
  .access (.write (HostReg.number .opsel) 0 (.bits ((tableBytes nbits w).headD 0).toNat))

end Sys2Proof.Machine
end

