-- ==== Sys2Proof/Machine/Step.lean ====
section
/-! DEFINITION. One step of the machine, with its three outcomes, and how the host of the pipeline places an
instruction where the next step takes it (log entries 7, 8). -/

namespace Sys2Proof.Machine

open Sys2Proof

/-- One step: the oldest input of the outside world, or the sequencer's next phase, or waiting at `IDLE`. -/
def step (s : State) : Host.Outcome State Fault Refusal := stepInputs s

/-- `s` with the write of `OPSEL` that starts the operation of the word `w` as its next input, and with the
registers the launch rules ask for (R182) written where they hold no value. -/
def State.withFetchWord (s : State) (nbits w : Nat) : State :=
  { s.launch with inputs := opselWrite nbits w :: s.inputs }

end Sys2Proof.Machine
end

