-- ==== Sys2Proof/Machine/Polling.lean ====
section
/-! DEFINITION. The host's side of an operation: start it and wait (R84), and the status-register polling loop
`wait_ready` (30_encoding R85, 42_status R104, R105). Host code, built from the block's operations. -/

namespace Sys2Proof.Machine

open Sys2Proof

/-- Start an operation and wait until `BUSY = 0` (R84); in the atomic grain the wait is over at once. -/
def operate (i : Instr) (s : State) : Outcome :=
  match startOperation (encode i) s with
  | .next t => runPhases maxPhases t
  | .fault f => .fault f
  | .refused r => .refused r

/-- Where the loop stands after a poll: at one of its three exits (R85), or with `n` polls counted and another to
come. -/
inductive PollExit where
  | ready | fail | timeout
  | again (n : Nat)
  deriving DecidableEq, Repr

/-- One turn of `wait_ready` (R85) with `n` polls counted so far: a `READ_STATUS`; then a failed result ends the
loop, then a clear WIP bit, then the count. The count is a natural number: with `MAX_POLLS = 0` it never meets its
bound (log entry 23). -/
def pollOnce (maxPolls n : Nat) (s : State) : Host.Outcome (PollExit × State) Fault Refusal :=
  match operate .readStatus s with
  | .fault f => .fault f
  | .refused r => .refused r
  | .next t =>
    held .result t.result fun r =>
      if r = .ok then
        held .status t.status fun b =>
          if statusWip b then .next (if n + 1 = maxPolls then .timeout else .again (n + 1), t)
          else .next (.ready, t)
      else .next (.fail, t)

/-- `wait_ready` with the bound `maxPolls` and `n` polls counted so far, followed for at most `fuel` polls (R85,
R104): an exit, or still polling. The moment at which a running program or erase completes is the environment's
(R63): with `LatchEnv` in the transport's place it can land before any primitive of any poll (`LatchEnv.breathe`, log
entry 32), so the loop sees `WIP` fall. -/
def waitReady : Nat → Nat → Nat → State → Host.Outcome (PollExit × State) Fault Refusal
  | 0, _, n, s => .next (.again n, s)
  | fuel + 1, maxPolls, n, s =>
    match pollOnce maxPolls n s with
    | .next (.again n', t) => waitReady fuel maxPolls n' t
    | .next (.ready, t) => .next (.ready, t)
    | .next (.fail, t) => .next (.fail, t)
    | .next (.timeout, t) => .next (.timeout, t)
    | .fault f => .fault f
    | .refused r => .refused r

end Sys2Proof.Machine
end

