-- ==== Sys2Proof/Machine/HostProgram.lean ====
section
/-! DEFINITION. Host programs in the syntax of 30_encoding R84: one line at a time, with the host's own control
flow. Not operations of the block: everything here goes through the host port. -/

namespace Sys2Proof.Machine

open Sys2Proof

/-- Where a host program stands: the next line, the polls its `wait_ready` has counted (0 elsewhere), and the
machine. -/
structure HostPoint where
  pc    : Nat
  polls : Nat
  state : State
  deriving DecidableEq, Repr

/-- Go to a line, with no polls counted. -/
def HostPoint.at (pc : Nat) (s : State) : HostPoint := { pc := pc, polls := 0, state := s }

/-- The index of the line that defines a label; past the end when none does (such a program is not well
formed). -/
def labelIndex : List Line → Nat → Nat
  | [], _ => 0
  | x :: rest, l => if x = .label l then 0 else labelIndex rest l + 1

/-- Go on at a label when a register the host has just read answers a test. A read that returned no value (R28)
leaves nothing to test: the host stays on the line and reads again. -/
def branchOn (p : List Line) (pc target : Nat) (test : HostValue → Bool) (o : Outcome) :
    Host.Outcome HostPoint Fault Refusal :=
  match o with
  | .fault f => .fault f
  | .refused r => .refused r
  | .next t =>
    match t.hostData with
    | none => .next (.at pc t)
    | some v => .next (.at (if test v then labelIndex p target else pc + 1) t)

/-- `RESULT != OK` (R84): the code read is not 0 (R161). -/
def notOkValue (v : HostValue) : Bool := v != .bits 0

/-- `STATUS[0] = 0` (R84). -/
def readyValue (v : HostValue) : Bool :=
  match v with
  | .bits n => n % 2 == 0
  | .line _ => false

/-- One line of a host program (R84); of a `wait_ready` line one poll (R85), so that a loop whose bound is never met
runs on line by line. -/
def lineStep (p : List Line) (pc polls : Nat) (x : Line) (s : State) : Host.Outcome HostPoint Fault Refusal :=
  match x with
  | .op i =>
    match operate i s with
    | .next t => .next (.at (pc + 1) t)
    | .fault f => .fault f
    | .refused r => .refused r
  | .ifResultNotOk l => branchOn p pc l notOkValue (hostRead .result s)
  | .ifStatusReady l => branchOn p pc l readyValue (hostRead .status s)
  | .goto l => .next (.at (labelIndex p l) s)
  | .label _ => .next (.at (pc + 1) s)
  | .waitReady maxPolls ready fail timeout =>
    match pollOnce maxPolls polls s with
    | .next (.ready, t) => .next (.at (labelIndex p ready) t)
    | .next (.fail, t) => .next (.at (labelIndex p fail) t)
    | .next (.timeout, t) => .next (.at (labelIndex p timeout) t)
    | .next (.again n, t) => .next { pc := pc, polls := n, state := t }
    | .fault f => .fault f
    | .refused r => .refused r
  | .setAddr v =>
    match hostPerformAll (Line.setAddr v).writes s with
    | .next t => .next (.at (pc + 1) t)
    | .fault f => .fault f
    | .refused r => .refused r
  | .setLen v =>
    match hostPerformAll (Line.setLen v).writes s with
    | .next t => .next (.at (pc + 1) t)
    | .fault f => .fault f
    | .refused r => .refused r
  | .setTxbuf bs =>
    match hostPerformAll (Line.setTxbuf bs).writes s with
    | .next t => .next (.at (pc + 1) t)
    | .fault f => .fault f
    | .refused r => .refused r

/-- At most `fuel` lines or polls of a host program, from a point on; past its last line the program has ended. -/
def runProgram (p : List Line) : Nat → HostPoint → Host.Outcome HostPoint Fault Refusal
  | 0, h => .next h
  | fuel + 1, h =>
    match p[h.pc]? with
    | none => .next h
    | some x =>
      match lineStep p h.pc h.polls x h.state with
      | .next h' => runProgram p fuel h'
      | .fault f => .fault f
      | .refused r => .refused r

end Sys2Proof.Machine
end

