-- ==== Sys2Proof/Safety.lean ====
section
/-! DEFINITION. The terms in which claims are made: when the block is ready, the named assumption on the
transport (R150), what a bus trace must look like (R46, R47, R80, R167), which results an operation can end in
(R174), the duties of the host (70_reset_and_hazards section 3), and the invariant of the sequencer. -/

namespace Sys2Proof.Machine

open Sys2Proof

/-! ### Premises -/

/-- The handle registers hold the handle `h` (R20, R182). -/
abbrev State.HasHandle (s : State) (h : Handle) : Prop :=
  s.bus = some h.bus ∧ s.csLine = some h.csLine ∧ s.timeout = some h.timeout

/-- The block is idle and its handle registers hold `h`: the launch premise of an operation (R182). -/
abbrev State.Ready (s : State) (h : Handle) : Prop := s.running = false ∧ s.HasHandle h

/-- The named assumption on the transport: every request is answered (R150). -/
def State.transportAnswers (s : State) : Bool := !s.transport.script.contains .never

/-- The oracle stands in no environment's place, and its next answers are `as` (R45). -/
abbrev State.OracleSays (s : State) (as rest : List Answer) : Prop :=
  s.transport.env = none ∧ s.transport.script = as ++ rest

/-- The seven operations of DRV 4.2 to 4.7, which write `RESULT` (R16). -/
def writesResult (i : Instr) : Bool := i != .csAssert && i != .csDeassert

/-- The operands an operation reads hold values (R32, R29): `ADDR` and `LEN` for `READ_DATA` and `PAGE_PROGRAM`, and
for the latter the payload where both checks pass (R13, R121). -/
def State.operandsHold (i : Instr) (s : State) : Bool :=
  match i with
  | .pageProgram =>
    match s.addr, s.len with
    | some a, some n => lengthError n || alignError a n || (cellSlice s.txbuf 0 n.toNat).isSome
    | _, _ => false
  | .readData => s.addr.isSome && s.len.isSome
  | _ => true

/-- An access that writes a register or starts an operation (R28). -/
def isHostWrite (a : HostAccess) : Bool :=
  match a with
  | .start _ => true
  | .writeAddr _ => true
  | .writeLen _ => true
  | .writeTxbuf _ _ => true
  | .writeTimeout _ => true
  | .writeCsLine _ => true
  | .writeBus _ => true
  | .read _ => false
  | .readTxbuf _ => false
  | .readRxbuf _ => false

/-- The outcome of a host read of the register `r` that delivers `v`, or finds no value (R32, R173). -/
def State.delivers (s : State) (r : HostReg) (v : Option HostValue) : Outcome :=
  match v with
  | some x => .next { s with hostData := some x }
  | none => .fault (.readNoValue r)

/-! ### The bus trace -/

/-- The events an operation appended to the trace. -/
def newEvents (s t : State) : List Event := t.trace.drop s.trace.length

/-- The chip-select discipline (R47) from a given position: windows open and close alternately, every request
lies inside one, and the last is closed. -/
def windowsFrom (inside : Bool) : List Event → Bool
  | [] => !inside
  | .cs _ .low :: rest => !inside && windowsFrom true rest
  | .cs _ .high :: rest => inside && windowsFrom false rest
  | .tx _ _ _ _ :: rest => inside && windowsFrom inside rest
  | .rx _ _ _ _ :: rest => inside && windowsFrom inside rest

/-- Chip select is paired around every frame (R47). -/
def csPaired (tr : List Event) : Bool := windowsFrom false tr

/-- The first byte of the first transmit after every `CS(0)` is one of the seven opcodes (R80). -/
def opcodesFrom (expecting : Bool) : List Event → Bool
  | [] => true
  | .cs _ .low :: rest => opcodesFrom true rest
  | .cs _ .high :: rest => opcodesFrom false rest
  | .tx _ _ bytes _ :: rest =>
    (!expecting || (match bytes with
      | b :: _ => knownOpcodes.contains b
      | [] => false)) && opcodesFrom false rest
  | .rx _ _ _ _ :: rest => opcodesFrom expecting rest

/-- Only known opcodes begin a frame (R80). -/
def opcodesKnown (tr : List Event) : Bool := opcodesFrom true tr

/-- An event that is a transmit whose first byte is `op`. -/
def Event.sends (op : Byte) : Event → Bool
  | .tx _ _ (b :: _) _ => b == op
  | .tx _ _ [] _ => false
  | .cs _ _ => false
  | .rx _ _ _ _ => false

/-- An event that opens a window. -/
def Event.opens : Event → Bool
  | .cs _ .low => true
  | .cs _ .high => false
  | .tx _ _ _ _ => false
  | .rx _ _ _ _ => false

/-- A `TX` event. -/
def Event.isTx : Event → Bool
  | .tx _ _ _ _ => true
  | .cs _ _ => false
  | .rx _ _ _ _ => false

/-- An `RX` event. -/
def Event.isRx : Event → Bool
  | .rx _ _ _ _ => true
  | .cs _ _ => false
  | .tx _ _ _ _ => false

/-- A request that failed. -/
def Event.failed : Event → Bool
  | .tx _ _ _ ok => !ok
  | .rx _ _ _ answer => answer.isNone
  | .cs _ _ => false

/-- The event carries the handle's values, unchanged (R20, R42, R171). -/
def Event.carries (h : Handle) : Event → Bool
  | .cs l _ => l == h.csLine
  | .tx b t _ _ => b == h.bus && t == h.timeout
  | .rx b t _ _ => b == h.bus && t == h.timeout

/-- Windows, `TX` events and `RX` events of a trace. -/
def eventCounts (tr : List Event) : Nat × Nat × Nat :=
  (tr.countP Event.opens, tr.countP Event.isTx, tr.countP Event.isRx)

/-- The counts of R79 for an operation on the path where every step succeeds. -/
def successCounts (i : Instr) (pre : Bool) : Nat × Nat × Nat :=
  match i with
  | .csAssert => (0, 0, 0)
  | .csDeassert => (0, 0, 0)
  | .verifyId => (1, 1, 1)
  | .readStatus => (1, 1, 1)
  | .writeEnable => (2, 2, 1)
  | .writeDisable => (2, 2, 1)
  | .chipErase => (3, 3, 1)
  | .pageProgram => (3, 4, 1)
  | .readData => if pre then (3, 3, 2) else (1, 1, 1)

/-- The events of a successful latch command and status read, `WE(s)` of the vectors (R109). -/
def latchEvents (h : Handle) (cmd : Header) (b : Byte) : List Event :=
  [.cs h.csLine .low, .tx h.bus h.timeout cmd.bytes true, .cs h.csLine .high,
   .cs h.csLine .low, .tx h.bus h.timeout (Header.bytes .readStatus) true, .rx h.bus h.timeout 1 (some [b]),
   .cs h.csLine .high]

/-- Nothing follows a failed request but the `CS(1)` of its window (R143, R165). -/
def stopsAtFailure : List Event → Bool
  | [] => true
  | e :: rest =>
    if e.failed then (match rest with
      | [.cs _ .high] => true
      | _ => false)
    else stopsAtFailure rest

/-- The state in which an operation with result `r` ends: the line is high, scratch is dead, the block idle; the
events `tr` are on the trace, and the answers `rest` are left. Everything else is as in `s`. -/
def ended (i : Instr) (s : State) (tr : List Event) (rest : List Answer) (r : ResultKind) : State :=
  { s with
    opsel := some (encode i), result := some r, busy := false, csN := .high, seq := .idle, hdr := none,
    srTmp := none, idTmp := none, err := none, rxTmp := none, trace := s.trace ++ tr,
    transport := { s.transport with script := rest } }

/-- A primitive as the block issues it, without the answer. -/
inductive Prim where
  | cs (level : Level)
  | tx (bytes : List Byte)
  | rx (n : Nat)
  deriving DecidableEq, Repr

/-- The primitive of an event. -/
def Event.prim : Event → Prim
  | .cs _ l => .cs l
  | .tx _ _ b _ => .tx b
  | .rx _ _ n _ => .rx n

/-- A frame's window: header, and what follows it. -/
def frameWindow (hd : Header) (rest : List Prim) : List Prim :=
  .cs .low :: .tx hd.bytes :: (rest ++ [.cs .high])

/-- The write-enable pair `WE` of R79, or the write-disable pair. -/
def latchPrims (hd : Header) : List Prim := frameWindow hd [] ++ frameWindow .readStatus [.rx 1]

/-- The primitives of an operation on its success path (R79, R142), for address `a`, length `n` and payload `v`. -/
def successPrims (i : Instr) (pre : Bool) (a n : Word32) (v : List Byte) : List Prim :=
  match i with
  | .csAssert => [.cs .low]
  | .csDeassert => [.cs .high]
  | .verifyId => frameWindow .readId [.rx 2]
  | .readStatus => frameWindow .readStatus [.rx 1]
  | .writeEnable => latchPrims .writeEnable
  | .writeDisable => latchPrims .writeDisable
  | .chipErase => latchPrims .writeEnable ++ frameWindow .chipErase []
  | .pageProgram => latchPrims .writeEnable ++ frameWindow (.pageProgram (addr24 a)) [.tx v]
  | .readData =>
    (if pre then latchPrims .writeEnable else []) ++ frameWindow (.readBytes (addr24 a)) [.rx n.toNat]

/-- Whether a run of primitives ends inside a window, begun inside one or not. -/
def endsInside (inside : Bool) : List Prim → Bool
  | [] => inside
  | .cs .low :: rest => endsInside true rest
  | .cs .high :: rest => endsInside false rest
  | .tx _ :: rest => endsInside inside rest
  | .rx _ :: rest => endsInside inside rest

/-- A cut run of primitives with the open window's `CsSet(1)` appended (R167). -/
def closeCut (ps : List Prim) : List Prim := if endsInside false ps then ps ++ [.cs .high] else ps

/-! ### Phases -/

/-- The phases the sequencer visits, at most `k`, until it is idle or stops. -/
def phasesVisited : Nat → State → List Phase
  | 0, _ => []
  | k + 1, s =>
    if s.seq = .idle then []
    else
      s.seq :: (match phaseStep s with
        | .next t => phasesVisited k t
        | .fault _ => []
        | .refused _ => [])

/-- The eight phases `WL_SEL` to `WL_VERIFY` (R142). -/
def latchPhases : List Phase := [.wlSel, .wlTx, .wlDes, .srSel, .srTx, .srRx, .srDes, .wlVerify]

/-- The phases of an operation on its success path (R142). -/
def successPhases (i : Instr) (pre : Bool) : List Phase :=
  match i with
  | .csAssert => [.cmdSel]
  | .csDeassert => [.cmdDes]
  | .verifyId => [.cmdSel, .cmdHdr, .cmdDrx, .cmdDes, .complete]
  | .readStatus => [.srSel, .srTx, .srRx, .srDes, .complete]
  | .writeEnable => latchPhases ++ [.complete]
  | .writeDisable => latchPhases ++ [.complete]
  | .chipErase => latchPhases ++ [.cmdSel, .cmdHdr, .cmdDes, .complete]
  | .pageProgram => .check :: (latchPhases ++ [.cmdSel, .cmdHdr, .cmdDtx, .cmdDes, .complete])
  | .readData => (if pre then latchPhases else []) ++ [.cmdSel, .cmdHdr, .cmdDrx, .cmdDes, .complete]

/-! ### Results -/

/-- The result kinds an operation can end in (R174). -/
def resultKinds (i : Instr) (pre : Bool) : List ResultKind :=
  match i with
  | .csAssert => []
  | .csDeassert => []
  | .verifyId => [.ok, .comm, .idMismatch]
  | .readStatus => [.ok, .comm]
  | .writeEnable => [.ok, .comm, .regVerify]
  | .writeDisable => [.ok, .comm, .regVerify]
  | .chipErase => [.ok, .comm, .regVerify]
  | .pageProgram => [.ok, .comm, .regVerify, .param]
  | .readData => if pre then [.ok, .comm, .regVerify] else [.ok, .comm]

/-! ### Duties of the host (R185 to R193): none is enforced by the block -/

/-- A program keeps inside its page (R188). -/
def pageRespected (a n : Word32) : Bool := (a.extractLsb' 0 8).toNat + n.toNat ≤ pageSize

/-- The range lies in the chip's address space and in what a frame can name (R189). -/
def RangeRespected (a n : Word32) : Prop :=
  a.toNat + n.toNat ≤ Config.flashSize ∧ a.extractLsb' 24 8 = 0

/-- No operation starts with chip select left asserted (R193). -/
def csReleased (s : State) : Bool := s.csN == .high

/-- The chip reported itself ready: the last status byte has WIP clear (R186). -/
def chipReady (s : State) : Bool :=
  match s.status with
  | some b => !statusWip b
  | none => false

/-! ### The environment's fairness -/

/-- The chip's internal operation is in progress, as `LatchEnv` has it (R63). -/
def State.chipBusy (s : State) : Bool :=
  match s.transport.env with
  | some e => e.wip
  | none => false

/-- Weak fairness of the environment's completion step (R63, R105) on a run taken phase by phase: the step is enabled
exactly while the chip is busy and ends that, so the chip is never busy for ever from some point on. An assumption
on the environment, never a property of the block. -/
def WeaklyFair (run : Nat → State) : Prop := ∀ n, ∃ m, n ≤ m ∧ (run m).chipBusy = false

/-- The same for a finite stretch: no operation is in progress, or one of the environment's next `k` choices lets
it complete. -/
def LatchEnv.completesWithin (k : Nat) (e : LatchEnv) : Bool := !e.wip || (e.moments.take k).contains true

/-! ### The invariant of the sequencer -/

/-- Whether an operation runs the latch-and-verify machine (R107, R142). -/
def usesLatch (i : Instr) (pre : Bool) : Bool :=
  match i with
  | .writeEnable => true
  | .writeDisable => true
  | .chipErase => true
  | .pageProgram => true
  | .readData => pre
  | .csAssert => false
  | .csDeassert => false
  | .verifyId => false
  | .readStatus => false

/-- Whether an operation sends a frame of its own in the phases `CMD_SEL` to `CMD_DES` (R142, R147). -/
def hasOwnFrame (i : Instr) : Bool :=
  match i with
  | .verifyId => true
  | .chipErase => true
  | .pageProgram => true
  | .readData => true
  | .csAssert => false
  | .csDeassert => false
  | .readStatus => false
  | .writeEnable => false
  | .writeDisable => false

/-- `ERR` inside a window: not yet set, or `COMM` (R143). -/
def errOpen (s : State) : Bool := s.err == some .ok || s.err == some .comm

/-- The registers a phase finds as the phases before it left them (R140 to R149), for operation `i`. -/
def phaseFits (i : Instr) (s : State) : Bool :=
  let ok := s.err == some .ok
  let low := s.csN == .low
  match s.seq with
  | .idle => false
  | .check => i == .pageProgram && ok
  | .wlSel => usesLatch i s.readPreWren && ok
  | .wlTx => usesLatch i s.readPreWren && ok && low
  | .wlDes => usesLatch i s.readPreWren && errOpen s && low
  | .srSel => (i == .readStatus || usesLatch i s.readPreWren) && ok
  | .srTx => (i == .readStatus || usesLatch i s.readPreWren) && ok && low
  | .srRx => (i == .readStatus || usesLatch i s.readPreWren) && ok && low
  | .srDes => (i == .readStatus || usesLatch i s.readPreWren) && errOpen s && low && (!ok || s.srTmp.isSome)
  | .wlVerify => usesLatch i s.readPreWren && ok && !low && s.srTmp.isSome
  | .cmdSel => (i == .csAssert || hasOwnFrame i) && ok
  | .cmdHdr => hasOwnFrame i && ok && low && s.hdr == (headerOf i s).map Header.bytes
  | .cmdDtx => i == .pageProgram && ok && low
  | .cmdDrx => (i == .verifyId || i == .readData) && ok && low
  | .cmdDes =>
    (i == .csDeassert && ok) ||
      (hasOwnFrame i && errOpen s && low && (!ok || i != .verifyId || s.idTmp.isSome) &&
        (!ok || i != .readData || s.rxTmp.isSome))
  | .complete =>
    writesResult i && s.err.isSome && (!low || s.err == some .param) &&
      (!ok || i != .readStatus || s.srTmp.isSome) && (!ok || i != .readData || s.rxTmp.isSome) &&
      (!ok || i != .pageProgram || s.addr.isSome)

/-- The operands of a running operation hold values; past its checks `PAGE_PROGRAM` has an
address and a payload (R32, R141). -/
def operandsFit (i : Instr) (s : State) : Bool :=
  s.bus.isSome && s.csLine.isSome && s.timeout.isSome && s.operandsHold i &&
    (i != .pageProgram || s.seq == .check || s.seq == .complete ||
      (s.addr.isSome && (match s.len with
        | some n => (cellSlice s.txbuf 0 n.toNat).isSome
        | none => false)))

/-- At `IDLE` the hidden scratch holds no value; `ERR` may still be the `OK` of reset (R23, R30). -/
def scratchDead (s : State) : Bool :=
  s.hdr.isNone && s.srTmp.isNone && s.idTmp.isNone && s.rxTmp.isNone && (s.err.isNone || s.err == some .ok)

/-- The operation `OPSEL` names. -/
def State.current (s : State) : Option Instr :=
  match s.opsel with
  | none => none
  | some c =>
    match decodeOpsel c with
    | .ok i => some i
    | .error _ => none

/-- The invariant: `BUSY = (SEQ != IDLE)` (R22), the buffer is canonical, `OPSEL` holds only defined codes (R83),
scratch is dead at `IDLE` (R23), and a running operation stands in a phase of its own with what that phase needs
(R142). -/
def State.inv (s : State) : Bool :=
  (s.busy == (s.seq != .idle)) && Memory.wf txbufSize s.txbuf && (s.opsel.isNone || s.current.isSome) &&
    (if s.seq = .idle then scratchDead s
     else
      match s.current with
      | some i => phaseFits i s && operandsFit i s
      | none => false)

end Sys2Proof.Machine
end

