-- ==== Sys2Proof/Laws/State.lean ====
section
/-! SUPPORT. What each update of the state leaves in each field: one lemma per field per update, true by rfl. -/

namespace Sys2Proof.Machine

open Sys2Proof

@[simp] theorem State.csSet_opsel (h : Handle) (l : Level) (s : State) : (s.csSet h l).opsel = s.opsel := rfl
@[simp] theorem State.csSet_addr (h : Handle) (l : Level) (s : State) : (s.csSet h l).addr = s.addr := rfl
@[simp] theorem State.csSet_len (h : Handle) (l : Level) (s : State) : (s.csSet h l).len = s.len := rfl
@[simp] theorem State.csSet_txbuf (h : Handle) (l : Level) (s : State) : (s.csSet h l).txbuf = s.txbuf := rfl
@[simp] theorem State.csSet_result (h : Handle) (l : Level) (s : State) : (s.csSet h l).result = s.result := rfl
@[simp] theorem State.csSet_status (h : Handle) (l : Level) (s : State) : (s.csSet h l).status = s.status := rfl
@[simp] theorem State.csSet_rxbuf (h : Handle) (l : Level) (s : State) : (s.csSet h l).rxbuf = s.rxbuf := rfl
@[simp] theorem State.csSet_busy (h : Handle) (l : Level) (s : State) : (s.csSet h l).busy = s.busy := rfl
@[simp] theorem State.csSet_csN (h : Handle) (l : Level) (s : State) : (s.csSet h l).csN = l := rfl
@[simp] theorem State.csSet_bus (h : Handle) (l : Level) (s : State) : (s.csSet h l).bus = s.bus := rfl
@[simp] theorem State.csSet_csLine (h : Handle) (l : Level) (s : State) : (s.csSet h l).csLine = s.csLine := rfl
@[simp] theorem State.csSet_timeout (h : Handle) (l : Level) (s : State) : (s.csSet h l).timeout = s.timeout := rfl
@[simp] theorem State.csSet_readPreWren (h : Handle) (l : Level) (s : State) : (s.csSet h l).readPreWren = s.readPreWren := rfl
@[simp] theorem State.csSet_seq (h : Handle) (l : Level) (s : State) : (s.csSet h l).seq = s.seq := rfl
@[simp] theorem State.csSet_hdr (h : Handle) (l : Level) (s : State) : (s.csSet h l).hdr = s.hdr := rfl
@[simp] theorem State.csSet_srTmp (h : Handle) (l : Level) (s : State) : (s.csSet h l).srTmp = s.srTmp := rfl
@[simp] theorem State.csSet_idTmp (h : Handle) (l : Level) (s : State) : (s.csSet h l).idTmp = s.idTmp := rfl
@[simp] theorem State.csSet_err (h : Handle) (l : Level) (s : State) : (s.csSet h l).err = s.err := rfl
@[simp] theorem State.csSet_rxTmp (h : Handle) (l : Level) (s : State) : (s.csSet h l).rxTmp = s.rxTmp := rfl
@[simp] theorem State.csSet_trace (h : Handle) (l : Level) (s : State) : (s.csSet h l).trace = s.trace ++ [.cs h.csLine l] := rfl
@[simp] theorem State.csSet_transport (h : Handle) (l : Level) (s : State) : (s.csSet h l).transport = s.transport.select s.csN l := rfl
@[simp] theorem State.csSet_inputs (h : Handle) (l : Level) (s : State) : (s.csSet h l).inputs = s.inputs := rfl
@[simp] theorem State.csSet_hostData (h : Handle) (l : Level) (s : State) : (s.csSet h l).hostData = s.hostData := rfl
@[simp] theorem State.csSet_grain (h : Handle) (l : Level) (s : State) : (s.csSet h l).grain = s.grain := rfl

@[simp] theorem State.busTx_opsel (h : Handle) (b : List Byte) (s : State) : ((s.busTx h b).2).opsel = s.opsel := rfl
@[simp] theorem State.busTx_addr (h : Handle) (b : List Byte) (s : State) : ((s.busTx h b).2).addr = s.addr := rfl
@[simp] theorem State.busTx_len (h : Handle) (b : List Byte) (s : State) : ((s.busTx h b).2).len = s.len := rfl
@[simp] theorem State.busTx_txbuf (h : Handle) (b : List Byte) (s : State) : ((s.busTx h b).2).txbuf = s.txbuf := rfl
@[simp] theorem State.busTx_result (h : Handle) (b : List Byte) (s : State) : ((s.busTx h b).2).result = s.result := rfl
@[simp] theorem State.busTx_status (h : Handle) (b : List Byte) (s : State) : ((s.busTx h b).2).status = s.status := rfl
@[simp] theorem State.busTx_rxbuf (h : Handle) (b : List Byte) (s : State) : ((s.busTx h b).2).rxbuf = s.rxbuf := rfl
@[simp] theorem State.busTx_busy (h : Handle) (b : List Byte) (s : State) : ((s.busTx h b).2).busy = s.busy := rfl
@[simp] theorem State.busTx_csN (h : Handle) (b : List Byte) (s : State) : ((s.busTx h b).2).csN = s.csN := rfl
@[simp] theorem State.busTx_bus (h : Handle) (b : List Byte) (s : State) : ((s.busTx h b).2).bus = s.bus := rfl
@[simp] theorem State.busTx_csLine (h : Handle) (b : List Byte) (s : State) : ((s.busTx h b).2).csLine = s.csLine := rfl
@[simp] theorem State.busTx_timeout (h : Handle) (b : List Byte) (s : State) : ((s.busTx h b).2).timeout = s.timeout := rfl
@[simp] theorem State.busTx_readPreWren (h : Handle) (b : List Byte) (s : State) : ((s.busTx h b).2).readPreWren = s.readPreWren := rfl
@[simp] theorem State.busTx_seq (h : Handle) (b : List Byte) (s : State) : ((s.busTx h b).2).seq = s.seq := rfl
@[simp] theorem State.busTx_hdr (h : Handle) (b : List Byte) (s : State) : ((s.busTx h b).2).hdr = s.hdr := rfl
@[simp] theorem State.busTx_srTmp (h : Handle) (b : List Byte) (s : State) : ((s.busTx h b).2).srTmp = s.srTmp := rfl
@[simp] theorem State.busTx_idTmp (h : Handle) (b : List Byte) (s : State) : ((s.busTx h b).2).idTmp = s.idTmp := rfl
@[simp] theorem State.busTx_err (h : Handle) (b : List Byte) (s : State) : ((s.busTx h b).2).err = s.err := rfl
@[simp] theorem State.busTx_rxTmp (h : Handle) (b : List Byte) (s : State) : ((s.busTx h b).2).rxTmp = s.rxTmp := rfl
@[simp] theorem State.busTx_trace (h : Handle) (b : List Byte) (s : State) : ((s.busTx h b).2).trace = s.trace ++ [.tx h.bus h.timeout b (s.transport.tx b).1] := rfl
@[simp] theorem State.busTx_transport (h : Handle) (b : List Byte) (s : State) : ((s.busTx h b).2).transport = (s.transport.tx b).2 := rfl
@[simp] theorem State.busTx_inputs (h : Handle) (b : List Byte) (s : State) : ((s.busTx h b).2).inputs = s.inputs := rfl
@[simp] theorem State.busTx_hostData (h : Handle) (b : List Byte) (s : State) : ((s.busTx h b).2).hostData = s.hostData := rfl
@[simp] theorem State.busTx_grain (h : Handle) (b : List Byte) (s : State) : ((s.busTx h b).2).grain = s.grain := rfl

@[simp] theorem State.busRx_opsel (h : Handle) (n : Nat) (s : State) : ((s.busRx h n).2).opsel = s.opsel := rfl
@[simp] theorem State.busRx_addr (h : Handle) (n : Nat) (s : State) : ((s.busRx h n).2).addr = s.addr := rfl
@[simp] theorem State.busRx_len (h : Handle) (n : Nat) (s : State) : ((s.busRx h n).2).len = s.len := rfl
@[simp] theorem State.busRx_txbuf (h : Handle) (n : Nat) (s : State) : ((s.busRx h n).2).txbuf = s.txbuf := rfl
@[simp] theorem State.busRx_result (h : Handle) (n : Nat) (s : State) : ((s.busRx h n).2).result = s.result := rfl
@[simp] theorem State.busRx_status (h : Handle) (n : Nat) (s : State) : ((s.busRx h n).2).status = s.status := rfl
@[simp] theorem State.busRx_rxbuf (h : Handle) (n : Nat) (s : State) : ((s.busRx h n).2).rxbuf = s.rxbuf := rfl
@[simp] theorem State.busRx_busy (h : Handle) (n : Nat) (s : State) : ((s.busRx h n).2).busy = s.busy := rfl
@[simp] theorem State.busRx_csN (h : Handle) (n : Nat) (s : State) : ((s.busRx h n).2).csN = s.csN := rfl
@[simp] theorem State.busRx_bus (h : Handle) (n : Nat) (s : State) : ((s.busRx h n).2).bus = s.bus := rfl
@[simp] theorem State.busRx_csLine (h : Handle) (n : Nat) (s : State) : ((s.busRx h n).2).csLine = s.csLine := rfl
@[simp] theorem State.busRx_timeout (h : Handle) (n : Nat) (s : State) : ((s.busRx h n).2).timeout = s.timeout := rfl
@[simp] theorem State.busRx_readPreWren (h : Handle) (n : Nat) (s : State) : ((s.busRx h n).2).readPreWren = s.readPreWren := rfl
@[simp] theorem State.busRx_seq (h : Handle) (n : Nat) (s : State) : ((s.busRx h n).2).seq = s.seq := rfl
@[simp] theorem State.busRx_hdr (h : Handle) (n : Nat) (s : State) : ((s.busRx h n).2).hdr = s.hdr := rfl
@[simp] theorem State.busRx_srTmp (h : Handle) (n : Nat) (s : State) : ((s.busRx h n).2).srTmp = s.srTmp := rfl
@[simp] theorem State.busRx_idTmp (h : Handle) (n : Nat) (s : State) : ((s.busRx h n).2).idTmp = s.idTmp := rfl
@[simp] theorem State.busRx_err (h : Handle) (n : Nat) (s : State) : ((s.busRx h n).2).err = s.err := rfl
@[simp] theorem State.busRx_rxTmp (h : Handle) (n : Nat) (s : State) : ((s.busRx h n).2).rxTmp = s.rxTmp := rfl
@[simp] theorem State.busRx_trace (h : Handle) (n : Nat) (s : State) : ((s.busRx h n).2).trace = s.trace ++ [.rx h.bus h.timeout n (s.transport.rx n).1] := rfl
@[simp] theorem State.busRx_transport (h : Handle) (n : Nat) (s : State) : ((s.busRx h n).2).transport = (s.transport.rx n).2 := rfl
@[simp] theorem State.busRx_inputs (h : Handle) (n : Nat) (s : State) : ((s.busRx h n).2).inputs = s.inputs := rfl
@[simp] theorem State.busRx_hostData (h : Handle) (n : Nat) (s : State) : ((s.busRx h n).2).hostData = s.hostData := rfl
@[simp] theorem State.busRx_grain (h : Handle) (n : Nat) (s : State) : ((s.busRx h n).2).grain = s.grain := rfl

@[simp] theorem State.begin_opsel (i : Instr) (s : State) : (s.begin i).opsel = some (encode i) := rfl
@[simp] theorem State.begin_addr (i : Instr) (s : State) : (s.begin i).addr = s.addr := rfl
@[simp] theorem State.begin_len (i : Instr) (s : State) : (s.begin i).len = s.len := rfl
@[simp] theorem State.begin_txbuf (i : Instr) (s : State) : (s.begin i).txbuf = s.txbuf := rfl
@[simp] theorem State.begin_result (i : Instr) (s : State) : (s.begin i).result = s.result := rfl
@[simp] theorem State.begin_status (i : Instr) (s : State) : (s.begin i).status = s.status := rfl
@[simp] theorem State.begin_rxbuf (i : Instr) (s : State) : (s.begin i).rxbuf = s.rxbuf := rfl
@[simp] theorem State.begin_busy (i : Instr) (s : State) : (s.begin i).busy = true := rfl
@[simp] theorem State.begin_csN (i : Instr) (s : State) : (s.begin i).csN = s.csN := rfl
@[simp] theorem State.begin_bus (i : Instr) (s : State) : (s.begin i).bus = s.bus := rfl
@[simp] theorem State.begin_csLine (i : Instr) (s : State) : (s.begin i).csLine = s.csLine := rfl
@[simp] theorem State.begin_timeout (i : Instr) (s : State) : (s.begin i).timeout = s.timeout := rfl
@[simp] theorem State.begin_readPreWren (i : Instr) (s : State) : (s.begin i).readPreWren = s.readPreWren := rfl
@[simp] theorem State.begin_seq (i : Instr) (s : State) : (s.begin i).seq = s.seq := rfl
@[simp] theorem State.begin_hdr (i : Instr) (s : State) : (s.begin i).hdr = s.hdr := rfl
@[simp] theorem State.begin_srTmp (i : Instr) (s : State) : (s.begin i).srTmp = s.srTmp := rfl
@[simp] theorem State.begin_idTmp (i : Instr) (s : State) : (s.begin i).idTmp = s.idTmp := rfl
@[simp] theorem State.begin_err (i : Instr) (s : State) : (s.begin i).err = some .ok := rfl
@[simp] theorem State.begin_rxTmp (i : Instr) (s : State) : (s.begin i).rxTmp = s.rxTmp := rfl
@[simp] theorem State.begin_trace (i : Instr) (s : State) : (s.begin i).trace = s.trace := rfl
@[simp] theorem State.begin_transport (i : Instr) (s : State) : (s.begin i).transport = s.transport := rfl
@[simp] theorem State.begin_inputs (i : Instr) (s : State) : (s.begin i).inputs = s.inputs := rfl
@[simp] theorem State.begin_hostData (i : Instr) (s : State) : (s.begin i).hostData = s.hostData := rfl
@[simp] theorem State.begin_grain (i : Instr) (s : State) : (s.begin i).grain = s.grain := rfl

@[simp] theorem State.toIdle_opsel (s : State) : (s.toIdle).opsel = s.opsel := rfl
@[simp] theorem State.toIdle_addr (s : State) : (s.toIdle).addr = s.addr := rfl
@[simp] theorem State.toIdle_len (s : State) : (s.toIdle).len = s.len := rfl
@[simp] theorem State.toIdle_txbuf (s : State) : (s.toIdle).txbuf = s.txbuf := rfl
@[simp] theorem State.toIdle_result (s : State) : (s.toIdle).result = s.result := rfl
@[simp] theorem State.toIdle_status (s : State) : (s.toIdle).status = s.status := rfl
@[simp] theorem State.toIdle_rxbuf (s : State) : (s.toIdle).rxbuf = s.rxbuf := rfl
@[simp] theorem State.toIdle_busy (s : State) : (s.toIdle).busy = false := rfl
@[simp] theorem State.toIdle_csN (s : State) : (s.toIdle).csN = s.csN := rfl
@[simp] theorem State.toIdle_bus (s : State) : (s.toIdle).bus = s.bus := rfl
@[simp] theorem State.toIdle_csLine (s : State) : (s.toIdle).csLine = s.csLine := rfl
@[simp] theorem State.toIdle_timeout (s : State) : (s.toIdle).timeout = s.timeout := rfl
@[simp] theorem State.toIdle_readPreWren (s : State) : (s.toIdle).readPreWren = s.readPreWren := rfl
@[simp] theorem State.toIdle_seq (s : State) : (s.toIdle).seq = .idle := rfl
@[simp] theorem State.toIdle_hdr (s : State) : (s.toIdle).hdr = none := rfl
@[simp] theorem State.toIdle_srTmp (s : State) : (s.toIdle).srTmp = none := rfl
@[simp] theorem State.toIdle_idTmp (s : State) : (s.toIdle).idTmp = none := rfl
@[simp] theorem State.toIdle_err (s : State) : (s.toIdle).err = none := rfl
@[simp] theorem State.toIdle_rxTmp (s : State) : (s.toIdle).rxTmp = none := rfl
@[simp] theorem State.toIdle_trace (s : State) : (s.toIdle).trace = s.trace := rfl
@[simp] theorem State.toIdle_transport (s : State) : (s.toIdle).transport = s.transport := rfl
@[simp] theorem State.toIdle_inputs (s : State) : (s.toIdle).inputs = s.inputs := rfl
@[simp] theorem State.toIdle_hostData (s : State) : (s.toIdle).hostData = s.hostData := rfl
@[simp] theorem State.toIdle_grain (s : State) : (s.toIdle).grain = s.grain := rfl

@[simp] theorem State.complete_opsel (k : ResultKind) (s : State) : (s.complete k).opsel = s.opsel := rfl
@[simp] theorem State.complete_addr (k : ResultKind) (s : State) : (s.complete k).addr = s.addr := rfl
@[simp] theorem State.complete_len (k : ResultKind) (s : State) : (s.complete k).len = s.len := rfl
@[simp] theorem State.complete_txbuf (k : ResultKind) (s : State) : (s.complete k).txbuf = s.txbuf := rfl
@[simp] theorem State.complete_result (k : ResultKind) (s : State) : (s.complete k).result = some k := rfl
@[simp] theorem State.complete_status (k : ResultKind) (s : State) : (s.complete k).status = s.status := rfl
@[simp] theorem State.complete_rxbuf (k : ResultKind) (s : State) : (s.complete k).rxbuf = s.rxbuf := rfl
@[simp] theorem State.complete_busy (k : ResultKind) (s : State) : (s.complete k).busy = false := rfl
@[simp] theorem State.complete_csN (k : ResultKind) (s : State) : (s.complete k).csN = s.csN := rfl
@[simp] theorem State.complete_bus (k : ResultKind) (s : State) : (s.complete k).bus = s.bus := rfl
@[simp] theorem State.complete_csLine (k : ResultKind) (s : State) : (s.complete k).csLine = s.csLine := rfl
@[simp] theorem State.complete_timeout (k : ResultKind) (s : State) : (s.complete k).timeout = s.timeout := rfl
@[simp] theorem State.complete_readPreWren (k : ResultKind) (s : State) : (s.complete k).readPreWren = s.readPreWren := rfl
@[simp] theorem State.complete_seq (k : ResultKind) (s : State) : (s.complete k).seq = .idle := rfl
@[simp] theorem State.complete_hdr (k : ResultKind) (s : State) : (s.complete k).hdr = none := rfl
@[simp] theorem State.complete_srTmp (k : ResultKind) (s : State) : (s.complete k).srTmp = none := rfl
@[simp] theorem State.complete_idTmp (k : ResultKind) (s : State) : (s.complete k).idTmp = none := rfl
@[simp] theorem State.complete_err (k : ResultKind) (s : State) : (s.complete k).err = none := rfl
@[simp] theorem State.complete_rxTmp (k : ResultKind) (s : State) : (s.complete k).rxTmp = none := rfl
@[simp] theorem State.complete_trace (k : ResultKind) (s : State) : (s.complete k).trace = s.trace := rfl
@[simp] theorem State.complete_transport (k : ResultKind) (s : State) : (s.complete k).transport = s.transport := rfl
@[simp] theorem State.complete_inputs (k : ResultKind) (s : State) : (s.complete k).inputs = s.inputs := rfl
@[simp] theorem State.complete_hostData (k : ResultKind) (s : State) : (s.complete k).hostData = s.hostData := rfl
@[simp] theorem State.complete_grain (k : ResultKind) (s : State) : (s.complete k).grain = s.grain := rfl

@[simp] theorem State.raise_opsel (k : ResultKind) (s : State) : (s.raise k).opsel = s.opsel := rfl
@[simp] theorem State.raise_addr (k : ResultKind) (s : State) : (s.raise k).addr = s.addr := rfl
@[simp] theorem State.raise_len (k : ResultKind) (s : State) : (s.raise k).len = s.len := rfl
@[simp] theorem State.raise_txbuf (k : ResultKind) (s : State) : (s.raise k).txbuf = s.txbuf := rfl
@[simp] theorem State.raise_result (k : ResultKind) (s : State) : (s.raise k).result = some k := rfl
@[simp] theorem State.raise_status (k : ResultKind) (s : State) : (s.raise k).status = s.status := rfl
@[simp] theorem State.raise_rxbuf (k : ResultKind) (s : State) : (s.raise k).rxbuf = s.rxbuf := rfl
@[simp] theorem State.raise_busy (k : ResultKind) (s : State) : (s.raise k).busy = false := rfl
@[simp] theorem State.raise_csN (k : ResultKind) (s : State) : (s.raise k).csN = s.csN := rfl
@[simp] theorem State.raise_bus (k : ResultKind) (s : State) : (s.raise k).bus = s.bus := rfl
@[simp] theorem State.raise_csLine (k : ResultKind) (s : State) : (s.raise k).csLine = s.csLine := rfl
@[simp] theorem State.raise_timeout (k : ResultKind) (s : State) : (s.raise k).timeout = s.timeout := rfl
@[simp] theorem State.raise_readPreWren (k : ResultKind) (s : State) : (s.raise k).readPreWren = s.readPreWren := rfl
@[simp] theorem State.raise_seq (k : ResultKind) (s : State) : (s.raise k).seq = .idle := rfl
@[simp] theorem State.raise_hdr (k : ResultKind) (s : State) : (s.raise k).hdr = none := rfl
@[simp] theorem State.raise_srTmp (k : ResultKind) (s : State) : (s.raise k).srTmp = none := rfl
@[simp] theorem State.raise_idTmp (k : ResultKind) (s : State) : (s.raise k).idTmp = none := rfl
@[simp] theorem State.raise_err (k : ResultKind) (s : State) : (s.raise k).err = none := rfl
@[simp] theorem State.raise_rxTmp (k : ResultKind) (s : State) : (s.raise k).rxTmp = none := rfl
@[simp] theorem State.raise_trace (k : ResultKind) (s : State) : (s.raise k).trace = s.trace := rfl
@[simp] theorem State.raise_transport (k : ResultKind) (s : State) : (s.raise k).transport = s.transport := rfl
@[simp] theorem State.raise_inputs (k : ResultKind) (s : State) : (s.raise k).inputs = s.inputs := rfl
@[simp] theorem State.raise_hostData (k : ResultKind) (s : State) : (s.raise k).hostData = s.hostData := rfl
@[simp] theorem State.raise_grain (k : ResultKind) (s : State) : (s.raise k).grain = s.grain := rfl

@[simp] theorem State.goto_opsel (p : Phase) (s : State) : (s.goto p).opsel = s.opsel := rfl
@[simp] theorem State.goto_addr (p : Phase) (s : State) : (s.goto p).addr = s.addr := rfl
@[simp] theorem State.goto_len (p : Phase) (s : State) : (s.goto p).len = s.len := rfl
@[simp] theorem State.goto_txbuf (p : Phase) (s : State) : (s.goto p).txbuf = s.txbuf := rfl
@[simp] theorem State.goto_result (p : Phase) (s : State) : (s.goto p).result = s.result := rfl
@[simp] theorem State.goto_status (p : Phase) (s : State) : (s.goto p).status = s.status := rfl
@[simp] theorem State.goto_rxbuf (p : Phase) (s : State) : (s.goto p).rxbuf = s.rxbuf := rfl
@[simp] theorem State.goto_busy (p : Phase) (s : State) : (s.goto p).busy = s.busy := rfl
@[simp] theorem State.goto_csN (p : Phase) (s : State) : (s.goto p).csN = s.csN := rfl
@[simp] theorem State.goto_bus (p : Phase) (s : State) : (s.goto p).bus = s.bus := rfl
@[simp] theorem State.goto_csLine (p : Phase) (s : State) : (s.goto p).csLine = s.csLine := rfl
@[simp] theorem State.goto_timeout (p : Phase) (s : State) : (s.goto p).timeout = s.timeout := rfl
@[simp] theorem State.goto_readPreWren (p : Phase) (s : State) : (s.goto p).readPreWren = s.readPreWren := rfl
@[simp] theorem State.goto_seq (p : Phase) (s : State) : (s.goto p).seq = p := rfl
@[simp] theorem State.goto_hdr (p : Phase) (s : State) : (s.goto p).hdr = s.hdr := rfl
@[simp] theorem State.goto_srTmp (p : Phase) (s : State) : (s.goto p).srTmp = s.srTmp := rfl
@[simp] theorem State.goto_idTmp (p : Phase) (s : State) : (s.goto p).idTmp = s.idTmp := rfl
@[simp] theorem State.goto_err (p : Phase) (s : State) : (s.goto p).err = s.err := rfl
@[simp] theorem State.goto_rxTmp (p : Phase) (s : State) : (s.goto p).rxTmp = s.rxTmp := rfl
@[simp] theorem State.goto_trace (p : Phase) (s : State) : (s.goto p).trace = s.trace := rfl
@[simp] theorem State.goto_transport (p : Phase) (s : State) : (s.goto p).transport = s.transport := rfl
@[simp] theorem State.goto_inputs (p : Phase) (s : State) : (s.goto p).inputs = s.inputs := rfl
@[simp] theorem State.goto_hostData (p : Phase) (s : State) : (s.goto p).hostData = s.hostData := rfl
@[simp] theorem State.goto_grain (p : Phase) (s : State) : (s.goto p).grain = s.grain := rfl

@[simp] theorem State.failTo_opsel (p : Phase) (k : ResultKind) (s : State) : (s.failTo p k).opsel = s.opsel := rfl
@[simp] theorem State.failTo_addr (p : Phase) (k : ResultKind) (s : State) : (s.failTo p k).addr = s.addr := rfl
@[simp] theorem State.failTo_len (p : Phase) (k : ResultKind) (s : State) : (s.failTo p k).len = s.len := rfl
@[simp] theorem State.failTo_txbuf (p : Phase) (k : ResultKind) (s : State) : (s.failTo p k).txbuf = s.txbuf := rfl
@[simp] theorem State.failTo_result (p : Phase) (k : ResultKind) (s : State) : (s.failTo p k).result = s.result := rfl
@[simp] theorem State.failTo_status (p : Phase) (k : ResultKind) (s : State) : (s.failTo p k).status = s.status := rfl
@[simp] theorem State.failTo_rxbuf (p : Phase) (k : ResultKind) (s : State) : (s.failTo p k).rxbuf = s.rxbuf := rfl
@[simp] theorem State.failTo_busy (p : Phase) (k : ResultKind) (s : State) : (s.failTo p k).busy = s.busy := rfl
@[simp] theorem State.failTo_csN (p : Phase) (k : ResultKind) (s : State) : (s.failTo p k).csN = s.csN := rfl
@[simp] theorem State.failTo_bus (p : Phase) (k : ResultKind) (s : State) : (s.failTo p k).bus = s.bus := rfl
@[simp] theorem State.failTo_csLine (p : Phase) (k : ResultKind) (s : State) : (s.failTo p k).csLine = s.csLine := rfl
@[simp] theorem State.failTo_timeout (p : Phase) (k : ResultKind) (s : State) : (s.failTo p k).timeout = s.timeout := rfl
@[simp] theorem State.failTo_readPreWren (p : Phase) (k : ResultKind) (s : State) : (s.failTo p k).readPreWren = s.readPreWren := rfl
@[simp] theorem State.failTo_seq (p : Phase) (k : ResultKind) (s : State) : (s.failTo p k).seq = p := rfl
@[simp] theorem State.failTo_hdr (p : Phase) (k : ResultKind) (s : State) : (s.failTo p k).hdr = s.hdr := rfl
@[simp] theorem State.failTo_srTmp (p : Phase) (k : ResultKind) (s : State) : (s.failTo p k).srTmp = s.srTmp := rfl
@[simp] theorem State.failTo_idTmp (p : Phase) (k : ResultKind) (s : State) : (s.failTo p k).idTmp = s.idTmp := rfl
@[simp] theorem State.failTo_err (p : Phase) (k : ResultKind) (s : State) : (s.failTo p k).err = some k := rfl
@[simp] theorem State.failTo_rxTmp (p : Phase) (k : ResultKind) (s : State) : (s.failTo p k).rxTmp = s.rxTmp := rfl
@[simp] theorem State.failTo_trace (p : Phase) (k : ResultKind) (s : State) : (s.failTo p k).trace = s.trace := rfl
@[simp] theorem State.failTo_transport (p : Phase) (k : ResultKind) (s : State) : (s.failTo p k).transport = s.transport := rfl
@[simp] theorem State.failTo_inputs (p : Phase) (k : ResultKind) (s : State) : (s.failTo p k).inputs = s.inputs := rfl
@[simp] theorem State.failTo_hostData (p : Phase) (k : ResultKind) (s : State) : (s.failTo p k).hostData = s.hostData := rfl
@[simp] theorem State.failTo_grain (p : Phase) (k : ResultKind) (s : State) : (s.failTo p k).grain = s.grain := rfl

@[simp] theorem State.leaveWindow_opsel (p : Phase) (s : State) : (s.leaveWindow p).opsel = s.opsel := rfl
@[simp] theorem State.leaveWindow_addr (p : Phase) (s : State) : (s.leaveWindow p).addr = s.addr := rfl
@[simp] theorem State.leaveWindow_len (p : Phase) (s : State) : (s.leaveWindow p).len = s.len := rfl
@[simp] theorem State.leaveWindow_txbuf (p : Phase) (s : State) : (s.leaveWindow p).txbuf = s.txbuf := rfl
@[simp] theorem State.leaveWindow_result (p : Phase) (s : State) : (s.leaveWindow p).result = s.result := rfl
@[simp] theorem State.leaveWindow_status (p : Phase) (s : State) : (s.leaveWindow p).status = s.status := rfl
@[simp] theorem State.leaveWindow_rxbuf (p : Phase) (s : State) : (s.leaveWindow p).rxbuf = s.rxbuf := rfl
@[simp] theorem State.leaveWindow_busy (p : Phase) (s : State) : (s.leaveWindow p).busy = s.busy := rfl
@[simp] theorem State.leaveWindow_csN (p : Phase) (s : State) : (s.leaveWindow p).csN = s.csN := rfl
@[simp] theorem State.leaveWindow_bus (p : Phase) (s : State) : (s.leaveWindow p).bus = s.bus := rfl
@[simp] theorem State.leaveWindow_csLine (p : Phase) (s : State) : (s.leaveWindow p).csLine = s.csLine := rfl
@[simp] theorem State.leaveWindow_timeout (p : Phase) (s : State) : (s.leaveWindow p).timeout = s.timeout := rfl
@[simp] theorem State.leaveWindow_readPreWren (p : Phase) (s : State) : (s.leaveWindow p).readPreWren = s.readPreWren := rfl
@[simp] theorem State.leaveWindow_seq (p : Phase) (s : State) : (s.leaveWindow p).seq = if s.err = some .ok then p else .complete := rfl
@[simp] theorem State.leaveWindow_hdr (p : Phase) (s : State) : (s.leaveWindow p).hdr = s.hdr := rfl
@[simp] theorem State.leaveWindow_srTmp (p : Phase) (s : State) : (s.leaveWindow p).srTmp = s.srTmp := rfl
@[simp] theorem State.leaveWindow_idTmp (p : Phase) (s : State) : (s.leaveWindow p).idTmp = s.idTmp := rfl
@[simp] theorem State.leaveWindow_err (p : Phase) (s : State) : (s.leaveWindow p).err = s.err := rfl
@[simp] theorem State.leaveWindow_rxTmp (p : Phase) (s : State) : (s.leaveWindow p).rxTmp = s.rxTmp := rfl
@[simp] theorem State.leaveWindow_trace (p : Phase) (s : State) : (s.leaveWindow p).trace = s.trace := rfl
@[simp] theorem State.leaveWindow_transport (p : Phase) (s : State) : (s.leaveWindow p).transport = s.transport := rfl
@[simp] theorem State.leaveWindow_inputs (p : Phase) (s : State) : (s.leaveWindow p).inputs = s.inputs := rfl
@[simp] theorem State.leaveWindow_hostData (p : Phase) (s : State) : (s.leaveWindow p).hostData = s.hostData := rfl
@[simp] theorem State.leaveWindow_grain (p : Phase) (s : State) : (s.leaveWindow p).grain = s.grain := rfl

@[simp] theorem State.busTx_answer (h : Handle) (b : List Byte) (s : State) : (s.busTx h b).1 = (s.transport.tx b).1 := rfl
@[simp] theorem State.busRx_answer (h : Handle) (n : Nat) (s : State) : (s.busRx h n).1 = (s.transport.rx n).1 := rfl

end Sys2Proof.Machine
end

