-- ==== Sys2Proof/Laws/Memory.lean ====
section
/-! SUPPORT. The cells of `TXBUF`: a read after a write, and the canonical form that every write keeps. -/

namespace Sys2Proof.Machine

open Sys2Proof

theorem cellRead_cellWrite (m : List Host.Cell) (i j : Nat) (b : Byte) (hm : m.Pairwise (fun c d => c.1 < d.1)) :
    cellRead (cellWrite m i b) j = if i = j then some b else cellRead m j := by
  induction m with
  | nil => simp [cellWrite, cellRead]
  | cons c rest ih =>
    rw [List.pairwise_cons] at hm
    simp only [cellWrite]
    split
    · simp [cellRead]
    · split
      · rename_i h1 h2
        subst h2
        simp only [cellRead]
        split <;> rfl
      · rename_i h1 h2
        simp only [cellRead, ih hm.2]
        by_cases hc : c.1 = j
        · have : ¬ i = j := by omega
          simp [hc, this]
        · simp [hc]

theorem cellRead_cellWrite_same (m : List Host.Cell) (i : Nat) (b : Byte)
    (hm : m.Pairwise (fun c d => c.1 < d.1)) : cellRead (cellWrite m i b) i = some b := by
  simp [cellRead_cellWrite m i i b hm]

theorem cellRead_cellWrite_other (m : List Host.Cell) (i j : Nat) (b : Byte)
    (hm : m.Pairwise (fun c d => c.1 < d.1)) (h : i ≠ j) : cellRead (cellWrite m i b) j = cellRead m j := by
  simp [cellRead_cellWrite m i j b hm, h]

/-- Every cell of a written buffer is the one written or was there before. -/
theorem mem_cellWrite {m : List Host.Cell} {i : Nat} {b : Byte} {c : Host.Cell} (h : c ∈ cellWrite m i b) :
    c = (i, b) ∨ c ∈ m := by
  induction m with
  | nil => simpa [cellWrite] using h
  | cons d rest ih =>
    simp only [cellWrite] at h
    split at h
    · simpa using h
    · split at h
      · simp only [List.mem_cons] at h ⊢
        tauto
      · rcases List.mem_cons.1 h with h | h
        · simp [h]
        · rcases ih h with h | h <;> simp [h]

theorem cellWrite_pairwise (m : List Host.Cell) (i : Nat) (b : Byte) (hm : m.Pairwise (fun c d => c.1 < d.1)) :
    (cellWrite m i b).Pairwise (fun c d => c.1 < d.1) := by
  induction m with
  | nil => simp [cellWrite]
  | cons c rest ih =>
    have hm' := List.pairwise_cons.1 hm
    simp only [cellWrite]
    split
    · rename_i h
      refine List.pairwise_cons.2 ⟨?_, hm⟩
      intro d hd
      rcases List.mem_cons.1 hd with rfl | hd
      · exact h
      · exact lt_trans h (hm'.1 d hd)
    · split
      · rename_i h
        refine List.pairwise_cons.2 ⟨?_, hm'.2⟩
        intro d hd
        exact h ▸ hm'.1 d hd
      · refine List.pairwise_cons.2 ⟨?_, ih hm'.2⟩
        intro d hd
        rcases mem_cellWrite hd with rfl | hd
        · simp only
          omega
        · exact hm'.1 d hd

theorem Memory.wf_iff (size : Nat) (m : List Host.Cell) :
    Memory.wf size m = true ↔ m.Pairwise (fun c d => c.1 < d.1) ∧ ∀ c ∈ m, c.1 < size := by
  simp [Memory.wf]

/-- A write inside the buffer keeps the canonical form. -/
theorem Memory.wf_cellWrite (size : Nat) (m : List Host.Cell) (i : Nat) (b : Byte) (hm : Memory.wf size m = true)
    (hi : i < size) : Memory.wf size (cellWrite m i b) = true := by
  rw [Memory.wf_iff] at hm ⊢
  refine ⟨cellWrite_pairwise m i b hm.1, fun c hc => ?_⟩
  rcases mem_cellWrite hc with rfl | hc
  · exact hi
  · exact hm.2 c hc

/-- An index no well-formed buffer can list holds no value. -/
theorem cellRead_none_of_ge {size : Nat} {m : List Host.Cell} {i : Nat} (hm : Memory.wf size m = true)
    (h : size ≤ i) : cellRead m i = none := by
  replace hm := ((Memory.wf_iff size m).1 hm).2
  induction m with
  | nil => rfl
  | cons c rest ih =>
    have : c.1 < size := hm c (by simp)
    have hne : ¬ c.1 = i := by omega
    simp only [cellRead, hne, if_false]
    exact ih fun d hd => hm d (by simp [hd])

theorem cellSlice_length {m : List Host.Cell} {n start : Nat} {bs : List Byte}
    (h : cellSlice m start n = some bs) : bs.length = n := by
  induction n generalizing start bs with
  | zero => simp [cellSlice] at h; simp [← h]
  | succ n ih =>
    simp only [cellSlice] at h
    split at h
    · simp at h
    · split at h
      · simp at h
      · rename_i bs' hbs
        simp only [Option.some.injEq] at h
        simp [← h, ih hbs]

/-- The reset machine's buffer has the canonical form. -/
theorem reset_txbuf_wf : Memory.wf txbufSize State.reset.txbuf = true := by decide

end Sys2Proof.Machine
end

