-- ==== Sys2Proof/Laws/Ops.lean ====
section
/-! SUPPORT. One lemma per shared operation that says all it can do: the transport's answers, a window, the
frames built from them, the latch sequence, and how an operation settles. Proofs cite these and do not unfold
the operations. -/

namespace Sys2Proof.Machine

open Sys2Proof

/-! ### The transport -/

@[simp] theorem freeBytes_length (n c : Nat) : (freeBytes n c).length = n := by simp [freeBytes]

@[simp] theorem fitBytes_length (n c : Nat) (bs : List Byte) : (fitBytes n c bs).length = n := by
  simp [fitBytes]
  omega

/-- Bytes that fit are left as they are. -/
@[simp] theorem fitBytes_self (c : Nat) (bs : List Byte) : fitBytes bs.length c bs = bs := by
  simp [fitBytes, freeBytes]

/-- The latch environment answers exactly the bytes asked for. -/
theorem LatchEnv.answer_length {n : Nat} {e : LatchEnv} {t : Transport} {b : List Byte}
    (h : (e.answer n t).1 = some b) : b.length = n := by
  unfold LatchEnv.answer at h
  simp only at h
  split at h
  · rename_i hc
    simp only [Transport.drawBytes, Option.some.injEq] at h
    simp [← h, hc.2.2]
  · split at h
    · rename_i hc
      simp only [Option.some.injEq] at h
      simp [← h, hc.2.2.1, expectedId]
    · simp only [Transport.drawBytes, Option.some.injEq] at h
      simp [← h]

/-- The latch environment uses up no answer of the script. -/
@[simp] theorem LatchEnv.answer_script (n : Nat) (e : LatchEnv) (t : Transport) :
    (e.answer n t).2.script = t.script := by
  unfold LatchEnv.answer
  simp only [Transport.drawBytes]
  split
  · rfl
  · split <;> rfl

/-- An `ok` receive delivers exactly the bytes asked for (R41). -/
theorem Transport.rx_length {n : Nat} {t : Transport} {b : List Byte} (h : (t.rx n).1 = some b) : b.length = n := by
  unfold Transport.rx at h
  split at h
  · exact LatchEnv.answer_length h
  · split at h
    · simp only at h
      split at h
      · simp only [Option.some.injEq] at h
        simp [← h]
      · simp at h
    · simp only [Option.some.injEq] at h
      simp [← h]
    · simp at h
    · simp at h

/-- A transmit uses up at most one answer of the script. -/
theorem Transport.tx_script (b : List Byte) (t : Transport) :
    (t.tx b).2.script = t.script ∨ (t.tx b).2.script = t.script.tail := by
  unfold Transport.tx
  split
  · exact .inl rfl
  · split <;> rename_i h <;> simp [h]

/-- A receive uses up at most one answer of the script. -/
theorem Transport.rx_script (n : Nat) (t : Transport) :
    (t.rx n).2.script = t.script ∨ (t.rx n).2.script = t.script.tail := by
  unfold Transport.rx
  split
  · simp
  · split <;> rename_i h <;> simp [h]

/-- Chip-select events use up no answer. -/
@[simp] theorem Transport.select_script (was l : Level) (t : Transport) :
    (t.select was l).script = t.script := by
  unfold Transport.select
  split
  · rfl
  · split <;> rfl

/-- While no internal operation is in progress the environment has no choice to make. -/
@[simp] theorem LatchEnv.breathe_idle {e : LatchEnv} (h : e.wip = false) (c : Nat) : e.breathe c = (e, c) := by
  simp [LatchEnv.breathe, h]

/-- All that a moment of the environment can do (R63): nothing but what it uses up, or the completion. -/
theorem LatchEnv.breathe_cases (e : LatchEnv) (c : Nat) :
    (e.breathe c).1 = { e with moments := e.moments.tail } ∨
      (e.breathe c).1 = { e.complete with moments := e.moments.tail } ∨ (e.breathe c).1 = e := by
  unfold LatchEnv.breathe
  split
  · split
    · rename_i hm
      cases Config.freeBit c
      · exact .inr (.inr rfl)
      · exact .inr (.inl (by simp [LatchEnv.complete, hm]))
    · rename_i m rest hm
      cases m
      · exact .inl (by simp [hm])
      · exact .inr (.inl (by simp [hm]))
  · exact .inr (.inr rfl)

/-- Without an environment, chip-select events leave the transport alone. -/
theorem Transport.select_oracle {t : Transport} (h : t.env = none) (was l : Level) : t.select was l = t := by
  simp [Transport.select, h]

/-- The next answer of the script settles a transmit. -/
theorem Transport.tx_oracle {t : Transport} {a : Answer} {rest : List Answer} (henv : t.env = none)
    (h : t.script = a :: rest) (b : List Byte) :
    t.tx b = (match a with
      | .ok _ => true
      | .fail => false
      | .never => false, { t with script := rest }) := by
  cases a <;> simp [Transport.tx, henv, h]

/-- The next answer of the script settles a receive. -/
theorem Transport.rx_oracle_ok {t : Transport} {bs : List Byte} {rest : List Answer} (henv : t.env = none)
    (h : t.script = .ok bs :: rest) : t.rx bs.length = (some bs, { t with script := rest }) := by
  simp [Transport.rx, henv, h]

/-- A failed answer settles a receive. -/
theorem Transport.rx_oracle_fail {t : Transport} {n : Nat} {rest : List Answer} (henv : t.env = none)
    (h : t.script = .fail :: rest) : t.rx n = (none, { t with script := rest }) := by
  simp [Transport.rx, henv, h]

/-! ### Settling -/

/-- Where every request is answered, an operation ends in its final state (R150). -/
theorem settle_of_answers {s : State} (h : s.transportAnswers = true) (t : State) : settle s t = .next t := by
  simp only [State.transportAnswers, Bool.not_eq_true'] at h
  simp only [settle, Transport.fellSilent, h, Bool.false_and]
  rfl

/-- An operation that answers a next state answers its final state. -/
theorem settle_next {s t u : State} (h : settle s t = .next u) : u = t := by
  unfold settle at h
  split at h
  · cases h
  · exact (Host.Outcome.next.inj h).symm

/-- What `settle` can answer. -/
theorem settle_cases (s t : State) : settle s t = .next t ∨ settle s t = .fault .transportSilent := by
  unfold settle
  split
  · exact .inr rfl
  · exact .inl rfl

/-! ### Windows and frames -/

/-- What a frame does to the state: it appends events, drives the line and talks to the transport, and that is
all (R29, R47). -/
def OnBus (s t : State) (tr : List Event) : Prop :=
  t = { s with csN := t.csN, transport := t.transport, trace := s.trace ++ tr }

theorem OnBus.trans {s t u : State} {tr tr' : List Event} (h : OnBus s t tr) (h' : OnBus t u tr') :
    OnBus s u (tr ++ tr') := by
  unfold OnBus at *
  rw [h', h]
  simp

theorem csSet_onBus (h : Handle) (l : Level) (s : State) : OnBus s (s.csSet h l) [.cs h.csLine l] := rfl

theorem busTx_onBus (h : Handle) (b : List Byte) (s : State) :
    OnBus s (s.busTx h b).2 [.tx h.bus h.timeout b (s.busTx h b).1] := rfl

theorem busRx_onBus (h : Handle) (n : Nat) (s : State) :
    OnBus s (s.busRx h n).2 [.rx h.bus h.timeout n (s.busRx h n).1] := rfl

/-- A window adds its two chip-select events around what its body adds, and ends high (R47). -/
theorem window_onBus {α : Type} {h : Handle} {body : State → α × State} {s : State} {tr : List Event}
    (hb : OnBus (s.csSet h .low) (body (s.csSet h .low)).2 tr) :
    OnBus s (window h body s).2 (.cs h.csLine .low :: (tr ++ [.cs h.csLine .high])) :=
  ((csSet_onBus h .low s).trans hb).trans (csSet_onBus h .high _)

@[simp] theorem window_answer {α : Type} (h : Handle) (body : State → α × State) (s : State) :
    (window h body s).1 = (body (s.csSet h .low)).1 := rfl

@[simp] theorem window_csN {α : Type} (h : Handle) (body : State → α × State) (s : State) :
    (window h body s).2.csN = .high := rfl

/-- A one-transmit frame (format `F1`, R72) in its window. -/
theorem window_busTx_spec (h : Handle) (b : List Byte) (s : State) :
    OnBus s (window h (State.busTx h b) s).2
      [.cs h.csLine .low, .tx h.bus h.timeout b (window h (State.busTx h b) s).1, .cs h.csLine .high] :=
  window_onBus (busTx_onBus h b _)

/-- Header out, `n` bytes in: the transmit failed, or the receive was answered (R96, R102, R132). -/
theorem sendReceive_cases (h : Handle) (hdr : List Byte) (n : Nat) (s : State) :
    ((sendReceive h hdr n s).1 = none ∧
        OnBus s (sendReceive h hdr n s).2 [.tx h.bus h.timeout hdr false]) ∨
      ((∀ b, (sendReceive h hdr n s).1 = some b → b.length = n) ∧
        OnBus s (sendReceive h hdr n s).2
          [.tx h.bus h.timeout hdr true, .rx h.bus h.timeout n (sendReceive h hdr n s).1]) := by
  have ho := busTx_onBus h hdr s
  cases ht : (s.busTx h hdr).1
  · rw [ht] at ho
    exact .inl ⟨by simp only [sendReceive, ht]; rfl, by simp only [sendReceive, ht]; exact ho⟩
  · rw [ht] at ho
    have he : sendReceive h hdr n s = (s.busTx h hdr).2.busRx h n := by simp only [sendReceive, ht, if_true]
    rw [he]
    exact .inr ⟨fun b hb => Transport.rx_length hb, ho.trans (busRx_onBus h n _)⟩

/-- Header out, payload out: the header failed, or the payload was answered (R124). -/
theorem sendSend_cases (h : Handle) (hdr v : List Byte) (s : State) :
    ((sendSend h hdr v s).1 = false ∧ OnBus s (sendSend h hdr v s).2 [.tx h.bus h.timeout hdr false]) ∨
      OnBus s (sendSend h hdr v s).2
        [.tx h.bus h.timeout hdr true, .tx h.bus h.timeout v (sendSend h hdr v s).1] := by
  have ho := busTx_onBus h hdr s
  cases ht : (s.busTx h hdr).1
  · rw [ht] at ho
    exact .inl ⟨by simp only [sendSend, ht]; rfl, by simp only [sendSend, ht]; exact ho⟩
  · rw [ht] at ho
    have he : sendSend h hdr v s = (s.busTx h hdr).2.busTx h v := by simp only [sendSend, ht, if_true]
    rw [he]
    exact .inr (ho.trans (busTx_onBus h v _))

/-- A header-then-receive frame (formats `F1R1`, `F4R2`, `F4R`) in its window. -/
theorem window_sendReceive_cases (h : Handle) (hdr : List Byte) (n : Nat) (s : State) :
    ((window h (sendReceive h hdr n) s).1 = none ∧
        OnBus s (window h (sendReceive h hdr n) s).2
          [.cs h.csLine .low, .tx h.bus h.timeout hdr false, .cs h.csLine .high]) ∨
      ((∀ b, (window h (sendReceive h hdr n) s).1 = some b → b.length = n) ∧
        OnBus s (window h (sendReceive h hdr n) s).2
          [.cs h.csLine .low, .tx h.bus h.timeout hdr true,
           .rx h.bus h.timeout n (window h (sendReceive h hdr n) s).1, .cs h.csLine .high]) := by
  rcases sendReceive_cases h hdr n (s.csSet h .low) with ⟨hn, ho⟩ | ⟨hl, ho⟩
  · exact .inl ⟨hn, window_onBus ho⟩
  · exact .inr ⟨hl, window_onBus ho⟩

/-- The program frame (format `F4W`) in its window (R124). -/
theorem window_sendSend_cases (h : Handle) (hdr v : List Byte) (s : State) :
    ((window h (sendSend h hdr v) s).1 = false ∧
        OnBus s (window h (sendSend h hdr v) s).2
          [.cs h.csLine .low, .tx h.bus h.timeout hdr false, .cs h.csLine .high]) ∨
      OnBus s (window h (sendSend h hdr v) s).2
        [.cs h.csLine .low, .tx h.bus h.timeout hdr true,
         .tx h.bus h.timeout v (window h (sendSend h hdr v) s).1, .cs h.csLine .high] := by
  rcases sendSend_cases h hdr v (s.csSet h .low) with ⟨hn, ho⟩ | ho
  · exact .inl ⟨hn, window_onBus ho⟩
  · exact .inr (window_onBus ho)

/-- The status window of `ReadStatusSeq` (R102): transmit failed, receive failed, or one byte came. -/
theorem readStatusSeq_cases (h : Handle) (s : State) :
    ((readStatusSeq h s).1 = none ∧
        OnBus s (readStatusSeq h s).2
          [.cs h.csLine .low, .tx h.bus h.timeout [0x05] false, .cs h.csLine .high]) ∨
      ((readStatusSeq h s).1 = none ∧
        OnBus s (readStatusSeq h s).2
          [.cs h.csLine .low, .tx h.bus h.timeout [0x05] true, .rx h.bus h.timeout 1 none, .cs h.csLine .high]) ∨
      ∃ b : Byte, (readStatusSeq h s).1 = some b ∧
        OnBus s (readStatusSeq h s).2
          [.cs h.csLine .low, .tx h.bus h.timeout [0x05] true, .rx h.bus h.timeout 1 (some [b]),
           .cs h.csLine .high] := by
  have hw := window_sendReceive_cases h (Header.bytes .readStatus) 1 s
  unfold readStatusSeq
  generalize window h (sendReceive h (Header.bytes .readStatus) 1) s = w at hw ⊢
  obtain ⟨ans, t⟩ := w
  rcases hw with ⟨hn, ho⟩ | ⟨hl, ho⟩
  · exact .inl ⟨by simp only at hn; simp [hn], ho⟩
  · rcases ans with _ | bs
    · exact .inr (.inl ⟨rfl, ho⟩)
    · match bs, hl bs rfl with
      | [b], _ => exact .inr (.inr ⟨b, rfl, ho⟩)

@[simp] theorem readStatusSeq_csN (h : Handle) (s : State) : (readStatusSeq h s).2.csN = .high := rfl

/-- All that `LatchSeq` can do (R109): command failed, status transmit failed, status receive failed, or a status
byte decided. -/
theorem latchSeq_cases (h : Handle) (cmd : Header) (want : Bool) (s : State) :
    ((latchSeq h cmd want s).1 = .comm ∧
        OnBus s (latchSeq h cmd want s).2
          [.cs h.csLine .low, .tx h.bus h.timeout cmd.bytes false, .cs h.csLine .high]) ∨
      ((latchSeq h cmd want s).1 = .comm ∧
        OnBus s (latchSeq h cmd want s).2
          [.cs h.csLine .low, .tx h.bus h.timeout cmd.bytes true, .cs h.csLine .high,
           .cs h.csLine .low, .tx h.bus h.timeout [0x05] false, .cs h.csLine .high]) ∨
      ((latchSeq h cmd want s).1 = .comm ∧
        OnBus s (latchSeq h cmd want s).2
          [.cs h.csLine .low, .tx h.bus h.timeout cmd.bytes true, .cs h.csLine .high,
           .cs h.csLine .low, .tx h.bus h.timeout [0x05] true, .rx h.bus h.timeout 1 none, .cs h.csLine .high]) ∨
      ∃ b : Byte, (latchSeq h cmd want s).1 = latchVerdict want b ∧
        OnBus { s with srTmp := some b } (latchSeq h cmd want s).2
          [.cs h.csLine .low, .tx h.bus h.timeout cmd.bytes true, .cs h.csLine .high,
           .cs h.csLine .low, .tx h.bus h.timeout [0x05] true, .rx h.bus h.timeout 1 (some [b]),
           .cs h.csLine .high] := by
  have ho := window_busTx_spec h cmd.bytes s
  unfold latchSeq
  generalize window h (State.busTx h cmd.bytes) s = w at ho ⊢
  obtain ⟨ok, t⟩ := w
  cases ok
  · exact .inl ⟨rfl, ho⟩
  · have hr := readStatusSeq_cases h t
    simp only [if_true]
    generalize readStatusSeq h t = q at hr ⊢
    obtain ⟨ans, u⟩ := q
    rcases hr with ⟨hn, hr⟩ | ⟨hn, hr⟩ | ⟨b, hn, hr⟩
    · simp only at hn
      subst hn
      exact .inr (.inl ⟨rfl, ho.trans hr⟩)
    · simp only at hn
      subst hn
      exact .inr (.inr (.inl ⟨rfl, ho.trans hr⟩))
    · simp only at hn
      subst hn
      refine .inr (.inr (.inr ⟨b, rfl, ?_⟩))
      have hor := ho.trans hr
      unfold OnBus at hor ⊢
      simp only at hor ⊢
      rw [hor]
      simp

/-- Every path of `LatchSeq` ends with the line high (R47). -/
theorem latchSeq_csN (h : Handle) (cmd : Header) (want : Bool) (s : State) :
    (latchSeq h cmd want s).2.csN = .high := by
  unfold latchSeq
  simp only
  split
  · split <;> rfl
  · rfl

/-! ### The host port -/

@[simp] theorem held_some {α β : Type} (r : HostReg) (v : β) (k : β → Host.Outcome α Fault Refusal) :
    held r (some v) k = k v := rfl

@[simp] theorem held_none {α β : Type} (r : HostReg) (k : β → Host.Outcome α Fault Refusal) :
    held r none k = .fault (.readNoValue r) := rfl

/-- A write that stores nothing answers the state it found, or is refused while an operation runs. -/
theorem discardWrite_cases (s : State) :
    (s.running = false ∧ discardWrite s = .next s) ∨ (s.running = true ∧ discardWrite s = .refused .busy) := by
  cases hr : s.running <;> simp [discardWrite, whileIdle, hr]

/-! ### Operands -/

@[simp] theorem withOperand_some {α : Type} (r : HostReg) (v : α) (k : α → Outcome) :
    withOperand r (some v) k = k v := rfl

@[simp] theorem withOperand_none {α : Type} (r : HostReg) (k : α → Outcome) :
    withOperand r none k = .refused (.operandNoValue r) := rfl

/-- An operand that lets the operation go on to a next state holds a value. -/
theorem withOperand_next {α : Type} {r : HostReg} {x : Option α} {k : α → Outcome} {t : State}
    (h : withOperand r x k = .next t) : ∃ v, x = some v ∧ k v = .next t := by
  cases x with
  | none => cases h
  | some v => exact ⟨v, rfl, h⟩

theorem withHandle_of_hasHandle {s : State} {h : Handle} (hs : s.HasHandle h) (k : Handle → Outcome) :
    withHandle s k = k h := by
  obtain ⟨h1, h2, h3⟩ := hs
  simp [withHandle, h1, h2, h3]

theorem withIdleHandle_of_ready {s : State} {h : Handle} (hs : s.Ready h) (k : Handle → Outcome) :
    withIdleHandle s k = k h := by
  simp [withIdleHandle, hs.1, withHandle_of_hasHandle hs.2]

/-- An operation that answers a next state found the block ready. -/
theorem withIdleHandle_next {s t : State} {k : Handle → Outcome} (h : withIdleHandle s k = .next t) :
    ∃ hd : Handle, s.Ready hd ∧ k hd = .next t := by
  unfold withIdleHandle at h
  split at h
  · cases h
  · rename_i hr
    obtain ⟨b, hb, h⟩ := withOperand_next h
    obtain ⟨l, hl, h⟩ := withOperand_next h
    obtain ⟨tm, htm, h⟩ := withOperand_next h
    exact ⟨⟨b, l, tm⟩, ⟨by simpa using hr, hb, hl, htm⟩, h⟩

theorem withAddrLen_eq {s : State} {a n : Word32} (ha : s.addr = some a) (hn : s.len = some n)
    (k : Word32 → Word32 → Outcome) : withAddrLen s k = k a n := by
  simp [withAddrLen, withAddr, withLen, ha, hn]

theorem withAddr_next {s t : State} {k : Word32 → Outcome} (h : withAddr s k = .next t) :
    ∃ a, s.addr = some a ∧ k a = .next t := withOperand_next h

theorem withLen_next {s t : State} {k : Word32 → Outcome} (h : withLen s k = .next t) :
    ∃ n, s.len = some n ∧ k n = .next t := withOperand_next h

theorem withAddrLen_next {s t : State} {k : Word32 → Word32 → Outcome} (h : withAddrLen s k = .next t) :
    ∃ a n, s.addr = some a ∧ s.len = some n ∧ k a n = .next t := by
  obtain ⟨a, ha, h⟩ := withAddr_next h
  obtain ⟨n, hn, h⟩ := withLen_next h
  exact ⟨a, n, ha, hn, h⟩

/-- `LEN > 256` (R121). -/
theorem lengthError_iff (n : Word32) : lengthError n = true ↔ 256 < n.toNat := decide_eq_true_iff

/-- `LEN = 256` and the low byte of `ADDR` not 0 (R122). -/
theorem alignError_iff (a n : Word32) : alignError a n = true ↔ n.toNat = 256 ∧ a.toNat % 256 ≠ 0 := by
  have hlow : a.extractLsb' 0 8 = 0 ↔ a.toNat % 256 = 0 := by
    rw [← BitVec.toNat_inj]
    simp
  simp only [alignError, Bool.and_eq_true, decide_eq_true_iff, bne_iff_ne, ne_eq, hlow]
  rfl

/-- `LEN` is too long, or `LEN = 256` at an address inside a page: one of the two checks fails. -/
def BadParams (a n : Word32) : Prop := lengthError n = true ∨ alignError a n = true

theorem withProgramParams_bad {s : State} {a n : Word32} (ha : s.addr = some a) (hn : s.len = some n)
    (hb : BadParams a n) (bad : Outcome) (good : Word32 → Word32 → Outcome) : withProgramParams s bad good = bad := by
  rcases hb with hl | hal
  · simp [withProgramParams, withAddrLen_eq ha hn, hl]
  · simp [withProgramParams, withAddrLen_eq ha hn, hal]

theorem withProgramParams_good {s : State} {a n : Word32} (ha : s.addr = some a) (hn : s.len = some n)
    (hl : lengthError n = false) (hal : alignError a n = false) (bad : Outcome)
    (good : Word32 → Word32 → Outcome) : withProgramParams s bad good = good a n := by
  simp [withProgramParams, withAddrLen_eq ha hn, hl, hal]

/-- All that the checks can do when they answer a next state. -/
theorem withProgramParams_next {s t : State} {bad : Outcome} {good : Word32 → Word32 → Outcome}
    (h : withProgramParams s bad good = .next t) :
    ∃ a n, s.addr = some a ∧ s.len = some n ∧ ((BadParams a n ∧ bad = .next t) ∨
      (lengthError n = false ∧ alignError a n = false ∧ good a n = .next t)) := by
  obtain ⟨a, n, ha, hn, h⟩ := withAddrLen_next h
  refine ⟨a, n, ha, hn, ?_⟩
  split at h
  · rename_i hl
    exact .inl ⟨.inl hl, h⟩
  · rename_i hl
    split at h
    · rename_i hal
      exact .inl ⟨.inr hal, h⟩
    · rename_i hal
      exact .inr ⟨by simpa using hl, by simpa using hal, h⟩

theorem withPayload_next {s t : State} {n : Word32} {k : List Byte → Outcome} (h : withPayload s n k = .next t) :
    ∃ v, cellSlice s.txbuf 0 n.toNat = some v ∧ k v = .next t := withOperand_next h

end Sys2Proof.Machine
end

