-- ==== Sys2Proof/Laws/PerInstr.lean ====
section
/-! SUPPORT. Statements made per instruction: the `OPSEL` code of each operation, its byte, and the decoder. -/

namespace Sys2Proof.Laws.OpselCode

open Sys2Proof

/-- The code of `i` is one of 1 to 9 (R82), the 4-bit decoder reads it back, and the byte decoder reads it back
and leaves the rest of the stream. -/
def Statement (i : Instr) : Prop :=
  i.wellFormed = true ∧ (0 < (encode i).toNat ∧ (encode i).toNat < 10) ∧ decodeOpsel (encode i) = .ok i ∧
    ∀ rest, decodeBytes (encodeBytes i ++ rest) = .ok (i, rest)

theorem csAssert : Statement .csAssert := ⟨rfl, by decide, rfl, fun _ => rfl⟩
theorem csDeassert : Statement .csDeassert := ⟨rfl, by decide, rfl, fun _ => rfl⟩
theorem verifyId : Statement .verifyId := ⟨rfl, by decide, rfl, fun _ => rfl⟩
theorem readStatus : Statement .readStatus := ⟨rfl, by decide, rfl, fun _ => rfl⟩
theorem writeEnable : Statement .writeEnable := ⟨rfl, by decide, rfl, fun _ => rfl⟩
theorem writeDisable : Statement .writeDisable := ⟨rfl, by decide, rfl, fun _ => rfl⟩
theorem chipErase : Statement .chipErase := ⟨rfl, by decide, rfl, fun _ => rfl⟩
theorem pageProgram : Statement .pageProgram := ⟨rfl, by decide, rfl, fun _ => rfl⟩
theorem readData : Statement .readData := ⟨rfl, by decide, rfl, fun _ => rfl⟩

end Sys2Proof.Laws.OpselCode
end

