-- ==== Sys2Proof/Certificates/Slice0/Obligations.lean ====
section
/-! DEFINITION. The statements for the provers. Premises speak of the state and the operands alone: `Ready` is
the launch premise of R182, `OracleSays` fixes the transport's next answers and leaves every later one open
(R45). Statements about `ended` give the whole next state, so they are at once the result, the frame and the
completion of the instruction they name. -/

open Sys2Proof Sys2Proof.Machine

/-! ### Encodings -/

/-- R82, R83: every operation's code decodes to it, and the codes 0 and 10 to 15 are refused by name. -/
def Obligations.OpselCodesDecode : Prop :=
  (Instr.all.map (fun i => (encode i).toNat) = [1, 2, 3, 4, 5, 6, 7, 8, 9]) ∧
    (∀ i : Instr, decodeOpsel (encode i) = .ok i) ∧
    ∀ c : BitVec 4, (c.toNat = 0 ∨ 10 ≤ c.toNat) → decodeOpsel c = .error (.reserved c)

/-- R72 to R76: every frame header is read back from its bytes, with every address. -/
def Obligations.HeaderDecodesFromItsBytes : Prop :=
  ∀ hd : Header, decodeHeader hd.bytes = .ok hd

/-- R72 to R78: what decodes as a header is that header's bytes and nothing else. -/
def Obligations.HeaderBytesAreUnique : Prop :=
  ∀ (bs : List Byte) (hd : Header), decodeHeader bs = .ok hd → hd.bytes = bs

/-- R76: the three address bytes are bits 23:16, 15:8 and 7:0, and bits 31:24 are dropped. -/
def Obligations.AddressBytesBigEndian : Prop :=
  ∀ a : BitVec 32, be24 (addr24 a) =
    [((a >>> (16 : Nat)) &&& 0xFF).setWidth 8, ((a >>> (8 : Nat)) &&& 0xFF).setWidth 8, (a &&& 0xFF).setWidth 8]

/-- R27: the eleven registers carry the numbers 0 to 10, and every well-formed host access is read back from the raw
access that encodes it, with every operand. -/
def Obligations.HostAccessDecodesFromItsEncoding : Prop :=
  (([.opsel, .addr, .len, .result, .status, .busy, .timeout, .csLine, .bus, .txbuf, .rxbuf] : List HostReg).map
    (fun r => r.number.toNat) = [0, 1, 2, 3, 4, 5, 6, 7, 8, 9, 10]) ∧
    ∀ a : HostAccess, a.wellFormed = true → decodeAccess (encodeAccess a) = .ok a

/-- R140, R161: the codes of the phases are 0 to 15 and fill the four bits; those of the result kinds are 0 to 4. -/
def Obligations.PhaseAndResultCodes : Prop :=
  ([ResultKind.ok, .comm, .regVerify, .idMismatch, .param].map (fun k => k.code.toNat) = [0, 1, 2, 3, 4]) ∧
    (([Phase.idle, .check, .wlSel, .wlTx, .wlDes, .srSel, .srTx, .srRx, .srDes, .wlVerify, .cmdSel, .cmdHdr, .cmdDtx,
      .cmdDrx, .cmdDes, .complete] : List Phase).map (fun p => p.code.toNat) = List.range 16) ∧
  (∀ p : Phase, Phase.ofCode p.code = p) ∧ (∀ c : BitVec 4, (Phase.ofCode c).code = c) ∧
    (∀ k : ResultKind, ResultKind.ofCode k.code = some k) ∧
    ∀ c : BitVec 3, 5 ≤ c.toNat → ResultKind.ofCode c = none

/-- R60, R103: bits 0 and 1 of a status byte are WIP and WEL, and the upper six pass through. -/
def Obligations.StatusByteBits : Prop :=
  ∀ (u : Byte) (wel wip : Bool), statusWip (statusByte u wel wip) = wip ∧ statusWel (statusByte u wel wip) = wel ∧
    (statusByte u wel wip).extractLsb' 2 6 = u.extractLsb' 2 6

/-- Words written out from the table of R82. -/
def Obligations.SampleWordsDecode : Prop :=
  decodeTableWord 8 0b0001 = some .csAssert ∧ decodeTableWord 8 0b0011 = some .verifyId ∧
    decodeTableWord 8 0b1000 = some .pageProgram ∧ decodeTableWord 8 0b1001 = some .readData ∧
    decodeTableWord 8 0b0000 = none ∧ decodeTableWord 8 0b1010 = none

/-! ### The step -/

/-- R15, R141: a step whose input is the host's write of an `OPSEL` code, in the idle block, is `exec` of the
operation the code names, on the state with that input taken; in the phased grain it is the start of its phases.
And the step after `withFetchWord` runs the operation of the word. -/
def Obligations.StepRunsTheDecodedOperation : Prop :=
  (∀ (s : State) (v : Nat) (i : Instr) (rest : List Input),
    s.inputs = .access (.write (HostReg.number .opsel) 0 (.bits v)) :: rest → v < 16 →
    decodeOpsel (BitVec.ofNat 4 v) = .ok i → s.running = false →
    step s = (match s.grain with
      | .atomic => exec i { s with inputs := rest }
      | .phased => startPhases i { s with inputs := rest })) ∧
    ∀ (s : State) (w : Nat) (i : Instr), decodeTableWord 8 w = some i → s.running = false → s.grain = .atomic →
      step (s.withFetchWord 8 w) = exec i s.launch

/-- R30, R22: without an input the idle block waits, and a running one performs its next phase. -/
def Obligations.StepWithoutInput : Prop :=
  ∀ s : State, s.inputs = [] →
    (s.running = false → step s = .next s) ∧ (s.running = true → step s = phaseStep s)

/-- R83: the codes 0 and 10 to 15 are invalid to the decoder, and a host that writes one starts nothing: the step
is refused by name, so there is no next state, no event and no result. -/
def Obligations.ReservedCodeStartsNothing : Prop :=
  ∀ (s : State) (v : Nat) (rest : List Input),
    s.inputs = .access (.write (HostReg.number .opsel) 0 (.bits v)) :: rest → s.running = false →
    (v = 0 ∨ (10 ≤ v ∧ v < 16)) →
    decodeOpsel (BitVec.ofNat 4 v) = .error (.reserved (BitVec.ofNat 4 v)) ∧
      step s = .refused (.reservedOpsel (BitVec.ofNat 4 v))

/-- R28, R141: while an operation runs, every host write of an assigned register and every start is refused, whatever
its element and value are. -/
def Obligations.HostWritesRefusedWhileBusy : Prop :=
  ∀ s : State, s.running = true →
    (∀ i : Instr, exec i s = .refused .busy ∧ startPhases i s = .refused .busy) ∧
      (∀ a : HostAccess, isHostWrite a = true → hostPerform a s = .refused .busy) ∧
      ∀ (n : BitVec 4) (index : Nat) (v : HostValue), n.toNat ≤ 10 →
        hostAccess (.write n index v) s = .refused .busy

/-- R27: an access to one of the register numbers 11 to 15 is refused. -/
def Obligations.UnassignedRegisterRefused : Prop :=
  ∀ (s : State) (n : BitVec 4) (index : Nat) (v : HostValue), 11 ≤ n.toNat →
    hostAccess (.write n index v) s = .refused (.unassignedRegister n) ∧
      hostAccess (.read n index) s = .refused (.unassignedRegister n)

/-- The model's choice (log entry 12), for accesses the table of R27 has no place for. In an idle block a write of
`RESULT`, `STATUS`, `BUSY` or `RXBUF`, of a `TXBUF` element that does not exist, or of what is no value of the
register stores nothing. A read of a `TXBUF` element is a fault where it holds no value (R32), and returns none where
it does. -/
def Obligations.AccessesBeyondTheTable : Prop :=
  (∀ (s : State) (index : Nat) (v : HostValue), s.running = false →
    hostAccess (.write 3 index v) s = .next s ∧ hostAccess (.write 4 index v) s = .next s ∧
    hostAccess (.write 5 index v) s = .next s ∧ hostAccess (.write 10 index v) s = .next s ∧
    (256 ≤ index → hostAccess (.write 9 index v) s = .next s) ∧
    ∀ (n : Nat) (l : CsLine),
      (16 ≤ n → hostAccess (.write 0 index (.bits n)) s = .next s) ∧
      (2 ^ 32 ≤ n → hostAccess (.write 1 index (.bits n)) s = .next s ∧
        hostAccess (.write 2 index (.bits n)) s = .next s) ∧
      (256 ≤ n → hostAccess (.write 9 index (.bits n)) s = .next s) ∧
      hostAccess (.write 7 index (.bits n)) s = .next s ∧
      ∀ r ∈ ([0, 1, 2, 6, 8, 9] : List (BitVec 4)), hostAccess (.write r index (.line l)) s = .next s) ∧
    ∀ (s : State) (index : Nat), hostAccess (.read 9 index) s =
      (match cellRead s.txbuf index with
        | none => .fault (.readNoValue .txbuf)
        | some _ => .next { s with hostData := none })

/-- R173: where a host access does not answer a next state, a read is a fault for a register that holds no value, or
refused for an unassigned number; a write is refused while an operation runs, for an unassigned number, for a reserved
code or for an operand that holds no value, or is stuck behind a request that is never answered. Nothing else stops
it. -/
def Obligations.HostAccessStopsOnlyAsStated : Prop :=
  (∀ (s : State) (n : BitVec 4) (index : Nat),
    (∃ t, hostAccess (.read n index) s = .next t) ∨ (∃ r, hostAccess (.read n index) s = .fault (.readNoValue r)) ∨
      (11 ≤ n.toNat ∧ hostAccess (.read n index) s = .refused (.unassignedRegister n))) ∧
    ∀ (s : State) (n : BitVec 4) (index : Nat) (v : HostValue),
      (∃ t, hostAccess (.write n index v) s = .next t) ∨
      (s.running = true ∧ hostAccess (.write n index v) s = .refused .busy) ∨
      (11 ≤ n.toNat ∧ hostAccess (.write n index v) s = .refused (.unassignedRegister n)) ∨
      (n.toNat = 0 ∧
        ((∃ c : BitVec 4, (c.toNat = 0 ∨ 10 ≤ c.toNat) ∧
            hostAccess (.write n index v) s = .refused (.reservedOpsel c)) ∨
          (∃ r, hostAccess (.write n index v) s = .refused (.operandNoValue r)) ∨
          (s.transportAnswers = false ∧ hostAccess (.write n index v) s = .fault .transportSilent)))

/-- R27, R32, R173: a host read of a scalar register, by its number, delivers what that register holds, and is the
fault `readNoValue` where it holds no value; `RESULT` is delivered as its code of R161. While an operation runs, a
read of `RESULT` or `STATUS` returns no value (R28), and the other registers are delivered as ever: the model's
reading, log entry 11. These registers have no elements, and the index says nothing (log entry 12). -/
def Obligations.HostReadDeliversOrFaults : Prop :=
  ∀ (s : State) (index : Nat),
    hostAccess (.read 0 index) s = s.delivers .opsel (s.opsel.map fun c => .bits c.toNat) ∧
    hostAccess (.read 1 index) s = s.delivers .addr (s.addr.map fun a => .bits a.toNat) ∧
    hostAccess (.read 2 index) s = s.delivers .len (s.len.map fun n => .bits n.toNat) ∧
    (s.running = false →
      hostAccess (.read 3 index) s = s.delivers .result (s.result.map fun k =>
        .bits (match k with
          | .ok => 0
          | .comm => 1
          | .regVerify => 2
          | .idMismatch => 3
          | .param => 4)) ∧
      hostAccess (.read 4 index) s = s.delivers .status (s.status.map fun b => .bits b.toNat)) ∧
    hostAccess (.read 5 index) s = s.delivers .busy (some (.bits (if s.busy then 1 else 0))) ∧
    hostAccess (.read 6 index) s = s.delivers .timeout (s.timeout.map fun d => .bits d) ∧
    hostAccess (.read 7 index) s = s.delivers .csLine (s.csLine.map fun l => .line l) ∧
    hostAccess (.read 8 index) s = s.delivers .bus (s.bus.map fun b => .bits b) ∧
    (s.running = true →
      hostAccess (.read 3 index) s = .next { s with hostData := none } ∧
        hostAccess (.read 4 index) s = .next { s with hostData := none })

/-- R14, R32: a host read of an element of `RXBUF`, register number 10, delivers that byte; where the element holds no
value, the sequence absent or too short (log entry 13), it is the fault `readNoValue`; and while an operation runs it
returns no value (R28; log entry 11). -/
def Obligations.RxbufReadDeliversElement : Prop :=
  ∀ (s : State) (i : Nat),
    (s.running = false → hostAccess (.read 10 i) s =
      (match s.rxbuf with
        | none => .fault (.readNoValue .rxbuf)
        | some bs =>
          if h : i < bs.length then .next { s with hostData := some (.bits (bs[i]'h).toNat) }
          else .fault (.readNoValue .rxbuf))) ∧
      (s.running = true → hostAccess (.read 10 i) s = .next { s with hostData := none })

/-- R13, R33: a host write of one `TXBUF` element changes that element, no other element and no other register,
and keeps the canonical form of the buffer. -/
def Obligations.TxbufWriteTouchesOneElement : Prop :=
  ∀ (s : State) (i : Nat) (b : Byte), s.running = false → i < txbufSize → Memory.wf txbufSize s.txbuf = true →
    ∃ t : State, hostPerform (.writeTxbuf i b) s = .next t ∧ t = { s with txbuf := t.txbuf } ∧
      Memory.wf txbufSize t.txbuf = true ∧
      ∀ j : Nat, cellRead t.txbuf j = if j = i then some b else cellRead s.txbuf j

/-- R27, R33: a host write of a scalar register of an idle block sets that register and changes nothing else. -/
def Obligations.ScalarWritesSetOneRegister : Prop :=
  ∀ s : State, s.running = false →
    (∀ v, hostPerform (.writeAddr v) s = .next { s with addr := some v }) ∧
    (∀ v, hostPerform (.writeLen v) s = .next { s with len := some v }) ∧
    (∀ v, hostPerform (.writeTimeout v) s = .next { s with timeout := some v }) ∧
    (∀ v, hostPerform (.writeCsLine v) s = .next { s with csLine := some v }) ∧
    ∀ v, hostPerform (.writeBus v) s = .next { s with bus := some v }

/-! ### Reset -/

/-- R30: the values of every register after reset. -/
def Obligations.ResetLeavesTheStatedValues : Prop :=
  let s := State.reset
  s.csN = .high ∧ s.busy = false ∧ s.seq = .idle ∧ s.err = some .ok ∧ s.opsel = none ∧ s.result = none ∧
    s.status = none ∧ s.addr = none ∧ s.len = none ∧ (∀ k, cellRead s.txbuf k = none) ∧ s.rxbuf = none ∧
    s.timeout = none ∧ s.csLine = none ∧ s.bus = none ∧ s.readPreWren = true ∧ s.hdr = none ∧ s.srTmp = none ∧
    s.idTmp = none

/-- R180, R181: the reset input, whenever it lands, leaves every register of the block at its reset value and
`READ_PRE_WREN` as configured, adds no event to the trace, and keeps the transport's remaining answers; where no
operation runs it leaves transport and chip alone. (Where one runs the chip's state is any value: U19, log entry
17.) -/
def Obligations.ResetInputAbandonsTheOperation : Prop :=
  ∀ (s : State) (rest : List Input), s.inputs = .reset :: rest →
    ∃ t : State, step s = .next t ∧
      t = { State.reset with
        readPreWren := s.readPreWren, grain := s.grain, trace := s.trace, inputs := rest,
        transport := t.transport } ∧
      t.transport.script = s.transport.script ∧ (s.running = false → t.transport = s.transport)

/-! ### The chip-select primitives -/

/-- R90: `CS_ASSERT` drives the line low, records the event, and writes nothing else the host can see but the
`OPSEL` code. -/
def Obligations.CsAssertDrivesTheLineLow : Prop :=
  ∀ (s : State) (h : Handle), s.Ready h →
    exec .csAssert s = .next { s with
      opsel := some 1, csN := .low, trace := s.trace ++ [.cs h.csLine .low], transport := s.transport.select s.csN .low,
      busy := false, seq := .idle, hdr := none, srTmp := none, idTmp := none, err := none, rxTmp := none }

/-- R91: `CS_DEASSERT` drives the line high, records the event, and writes nothing else the host can see but the
`OPSEL` code. -/
def Obligations.CsDeassertDrivesTheLineHigh : Prop :=
  ∀ (s : State) (h : Handle), s.Ready h →
    exec .csDeassert s = .next { s with
      opsel := some 2, csN := .high, trace := s.trace ++ [.cs h.csLine .high],
      transport := s.transport.select s.csN .high,
      busy := false, seq := .idle, hdr := none, srTmp := none, idTmp := none, err := none, rxTmp := none }

/-! ### Results and traces, answer by answer -/

/-- R96, R97: `VERIFY_ID` with two bytes received ends in `OK` exactly for `[0xC2, 0x14]` and in `IDMISMATCH`
otherwise; a failed request gives `COMM`, and a failed transmit skips the receive. -/
def Obligations.VerifyIdOutcomes : Prop :=
  ∀ (s : State) (h : Handle) (rest : List Answer) (p : List Byte) (m d : Byte), s.Ready h →
    let hdr : List Byte := [0x90, 0x00, 0x00, 0x00]
    (s.OracleSays [.ok p, .ok [m, d]] rest →
      exec .verifyId s = .next (ended .verifyId s
        [.cs h.csLine .low, .tx h.bus h.timeout hdr true, .rx h.bus h.timeout 2 (some [m, d]), .cs h.csLine .high]
        rest (if m = 0xC2 ∧ d = 0x14 then .ok else .idMismatch))) ∧
    (s.OracleSays [.fail] rest →
      exec .verifyId s = .next (ended .verifyId s
        [.cs h.csLine .low, .tx h.bus h.timeout hdr false, .cs h.csLine .high] rest .comm)) ∧
    (s.OracleSays [.ok p, .fail] rest →
      exec .verifyId s = .next (ended .verifyId s
        [.cs h.csLine .low, .tx h.bus h.timeout hdr true, .rx h.bus h.timeout 2 none, .cs h.csLine .high]
        rest .comm))

/-- R101, R102: `READ_STATUS` delivers the byte it received, unchanged; a failed request gives `COMM` and leaves
`STATUS` without a value. -/
def Obligations.ReadStatusOutcomes : Prop :=
  ∀ (s : State) (h : Handle) (rest : List Answer) (p : List Byte) (b : Byte), s.Ready h →
    (s.OracleSays [.ok p, .ok [b]] rest →
      exec .readStatus s = .next { ended .readStatus s
        [.cs h.csLine .low, .tx h.bus h.timeout [0x05] true, .rx h.bus h.timeout 1 (some [b]), .cs h.csLine .high]
        rest .ok with status := some b }) ∧
    (s.OracleSays [.fail] rest →
      exec .readStatus s = .next { ended .readStatus s
        [.cs h.csLine .low, .tx h.bus h.timeout [0x05] false, .cs h.csLine .high] rest .comm with status := none }) ∧
    (s.OracleSays [.ok p, .fail] rest →
      exec .readStatus s = .next { ended .readStatus s
        [.cs h.csLine .low, .tx h.bus h.timeout [0x05] true, .rx h.bus h.timeout 1 none, .cs h.csLine .high]
        rest .comm with status := none })

/-- R108, R109: `WRITE_ENABLE` sends 0x06 and 0x05 in two windows and ends in `OK` exactly when bit 1 of the byte
read back is 1, else in `REGVERIFY`; each of its three requests, when it fails, gives `COMM`. -/
def Obligations.WriteEnableOutcomes : Prop :=
  ∀ (s : State) (h : Handle) (rest : List Answer) (p q : List Byte) (b : Byte), s.Ready h →
    let cmd : List Event := [.cs h.csLine .low, .tx h.bus h.timeout [0x06] true, .cs h.csLine .high]
    (s.OracleSays [.ok p, .ok q, .ok [b]] rest →
      exec .writeEnable s = .next (ended .writeEnable s
        (cmd ++ [.cs h.csLine .low, .tx h.bus h.timeout [0x05] true, .rx h.bus h.timeout 1 (some [b]),
          .cs h.csLine .high]) rest (if b.getLsbD 1 = true then .ok else .regVerify))) ∧
    (s.OracleSays [.fail] rest →
      exec .writeEnable s = .next (ended .writeEnable s
        [.cs h.csLine .low, .tx h.bus h.timeout [0x06] false, .cs h.csLine .high] rest .comm)) ∧
    (s.OracleSays [.ok p, .fail] rest →
      exec .writeEnable s = .next (ended .writeEnable s
        (cmd ++ [.cs h.csLine .low, .tx h.bus h.timeout [0x05] false, .cs h.csLine .high]) rest .comm)) ∧
    (s.OracleSays [.ok p, .ok q, .fail] rest →
      exec .writeEnable s = .next (ended .writeEnable s
        (cmd ++ [.cs h.csLine .low, .tx h.bus h.timeout [0x05] true, .rx h.bus h.timeout 1 none,
          .cs h.csLine .high]) rest .comm))

/-- R111, R109: `WRITE_DISABLE` sends 0x04 and 0x05 in two windows and ends in `OK` exactly when bit 1 of the byte
read back is 0, else in `REGVERIFY`; each of its three requests, when it fails, gives `COMM`. -/
def Obligations.WriteDisableOutcomes : Prop :=
  ∀ (s : State) (h : Handle) (rest : List Answer) (p q : List Byte) (b : Byte), s.Ready h →
    let cmd : List Event := [.cs h.csLine .low, .tx h.bus h.timeout [0x04] true, .cs h.csLine .high]
    (s.OracleSays [.ok p, .ok q, .ok [b]] rest →
      exec .writeDisable s = .next (ended .writeDisable s
        (cmd ++ [.cs h.csLine .low, .tx h.bus h.timeout [0x05] true, .rx h.bus h.timeout 1 (some [b]),
          .cs h.csLine .high]) rest (if b.getLsbD 1 = false then .ok else .regVerify))) ∧
    (s.OracleSays [.fail] rest →
      exec .writeDisable s = .next (ended .writeDisable s
        [.cs h.csLine .low, .tx h.bus h.timeout [0x04] false, .cs h.csLine .high] rest .comm)) ∧
    (s.OracleSays [.ok p, .fail] rest →
      exec .writeDisable s = .next (ended .writeDisable s
        (cmd ++ [.cs h.csLine .low, .tx h.bus h.timeout [0x05] false, .cs h.csLine .high]) rest .comm)) ∧
    (s.OracleSays [.ok p, .ok q, .fail] rest →
      exec .writeDisable s = .next (ended .writeDisable s
        (cmd ++ [.cs h.csLine .low, .tx h.bus h.timeout [0x05] true, .rx h.bus h.timeout 1 none,
          .cs h.csLine .high]) rest .comm))

/-- R117, R113: `CHIP_ERASE` sends the erase frame after a verified write-enable only; a failed verification ends
it with `REGVERIFY` after the first two windows, a failed request with `COMM`. -/
def Obligations.ChipEraseOutcomes : Prop :=
  ∀ (s : State) (h : Handle) (rest : List Answer) (p q r : List Byte) (b : Byte), s.Ready h →
    (s.OracleSays [.ok p, .ok q, .ok [b], .ok r] rest → b.getLsbD 1 = true →
      exec .chipErase s = .next (ended .chipErase s
        (latchEvents h .writeEnable b ++
          [.cs h.csLine .low, .tx h.bus h.timeout [0x60] true, .cs h.csLine .high]) rest .ok)) ∧
    (s.OracleSays [.ok p, .ok q, .ok [b]] rest → b.getLsbD 1 = false →
      exec .chipErase s = .next (ended .chipErase s (latchEvents h .writeEnable b) rest .regVerify)) ∧
    (s.OracleSays [.ok p, .ok q, .ok [b], .fail] rest → b.getLsbD 1 = true →
      exec .chipErase s = .next (ended .chipErase s
        (latchEvents h .writeEnable b ++
          [.cs h.csLine .low, .tx h.bus h.timeout [0x60] false, .cs h.csLine .high]) rest .comm)) ∧
    (s.OracleSays [.fail] rest →
      exec .chipErase s = .next (ended .chipErase s
        [.cs h.csLine .low, .tx h.bus h.timeout [0x06] false, .cs h.csLine .high] rest .comm)) ∧
    (s.OracleSays [.ok p, .fail] rest →
      exec .chipErase s = .next (ended .chipErase s
        [.cs h.csLine .low, .tx h.bus h.timeout [0x06] true, .cs h.csLine .high,
          .cs h.csLine .low, .tx h.bus h.timeout [0x05] false, .cs h.csLine .high] rest .comm)) ∧
    (s.OracleSays [.ok p, .ok q, .fail] rest →
      exec .chipErase s = .next (ended .chipErase s
        [.cs h.csLine .low, .tx h.bus h.timeout [0x06] true, .cs h.csLine .high,
          .cs h.csLine .low, .tx h.bus h.timeout [0x05] true, .rx h.bus h.timeout 1 none, .cs h.csLine .high]
        rest .comm))

/-- R121, R122, R126: `PAGE_PROGRAM` with a length above 256, or of 256 and an address whose low byte is not 0,
ends in `PARAM` with no event at all, no answer used, the line and `ADDR` as they were; a length above 256 whatever
the address is. -/
def Obligations.PageProgramRejectsBadParameters : Prop :=
  ∀ (s : State) (h : Handle) (a n : Word32), s.Ready h → s.addr = some a → s.len = some n →
    (256 < n.toNat ∨ (n.toNat = 256 ∧ a.toNat % 256 ≠ 0)) →
    exec .pageProgram s = .next { s with
      opsel := some 8, result := some .param, busy := false, seq := .idle, hdr := none, srTmp := none,
      idTmp := none, err := none, rxTmp := none }

/-- R13, R49, R124: the payload is the elements `TXBUF[0]` to `TXBUF[n-1]` in index order, and there is one exactly
where each of them holds a value. -/
def Obligations.PayloadIsTxbufInIndexOrder : Prop :=
  ∀ (m : List Host.Cell) (n : Nat) (v : List Byte),
    cellSlice m 0 n = some v ↔ v.length = n ∧ ∀ k < n, cellRead m k = v[k]?

/-- R120, R123 to R126: `PAGE_PROGRAM` with good parameters sends write-enable, header and the payload `TXBUF[0]`, `TXBUF[1]`, … in this order; when every
request is answered `ok` and the latch verified it ends in `OK` with `ADDR` advanced by `LEN` modulo 2^32; a
failed verification, header or payload ends it with `ADDR` unchanged. -/
def Obligations.PageProgramOutcomes : Prop :=
  ∀ (s : State) (h : Handle) (a n : Word32) (v : List Byte) (rest : List Answer) (p q r u : List Byte) (b : Byte),
    s.Ready h → s.addr = some a → s.len = some n →
    v.length = n.toNat → (∀ k < n.toNat, cellRead s.txbuf k = v[k]?) →
    ¬ 256 < n.toNat → ¬ (n.toNat = 256 ∧ a.toNat % 256 ≠ 0) →
    let hdr : List Byte := [0x02, a.extractLsb' 16 8, a.extractLsb' 8 8, a.extractLsb' 0 8]
    (s.OracleSays [.ok p, .ok q, .ok [b], .ok r, .ok u] rest → b.getLsbD 1 = true →
      exec .pageProgram s = .next { ended .pageProgram s
        (latchEvents h .writeEnable b ++ [.cs h.csLine .low, .tx h.bus h.timeout hdr true,
          .tx h.bus h.timeout v true, .cs h.csLine .high]) rest .ok with addr := some (a + n) }) ∧
    (s.OracleSays [.ok p, .ok q, .ok [b], .ok r, .fail] rest → b.getLsbD 1 = true →
      exec .pageProgram s = .next (ended .pageProgram s
        (latchEvents h .writeEnable b ++ [.cs h.csLine .low, .tx h.bus h.timeout hdr true,
          .tx h.bus h.timeout v false, .cs h.csLine .high]) rest .comm)) ∧
    (s.OracleSays [.ok p, .ok q, .ok [b], .fail] rest → b.getLsbD 1 = true →
      exec .pageProgram s = .next (ended .pageProgram s
        (latchEvents h .writeEnable b ++ [.cs h.csLine .low, .tx h.bus h.timeout hdr false, .cs h.csLine .high])
        rest .comm)) ∧
    (s.OracleSays [.ok p, .ok q, .ok [b]] rest → b.getLsbD 1 = false →
      exec .pageProgram s = .next (ended .pageProgram s (latchEvents h .writeEnable b) rest .regVerify)) ∧
    (s.OracleSays [.fail] rest →
      exec .pageProgram s = .next (ended .pageProgram s
        [.cs h.csLine .low, .tx h.bus h.timeout [0x06] false, .cs h.csLine .high] rest .comm)) ∧
    (s.OracleSays [.ok p, .fail] rest →
      exec .pageProgram s = .next (ended .pageProgram s
        [.cs h.csLine .low, .tx h.bus h.timeout [0x06] true, .cs h.csLine .high,
          .cs h.csLine .low, .tx h.bus h.timeout [0x05] false, .cs h.csLine .high] rest .comm)) ∧
    (s.OracleSays [.ok p, .ok q, .fail] rest →
      exec .pageProgram s = .next (ended .pageProgram s
        [.cs h.csLine .low, .tx h.bus h.timeout [0x06] true, .cs h.csLine .high,
          .cs h.csLine .low, .tx h.bus h.timeout [0x05] true, .rx h.bus h.timeout 1 none, .cs h.csLine .high]
        rest .comm))

/-- R130 to R132, R135, with `READ_PRE_WREN = 0`: header out, `LEN` bytes in as one request, `RXBUF` holding them;
a failed request gives `COMM` and leaves `RXBUF` without a value. -/
def Obligations.ReadDataOutcomesWithoutWriteEnable : Prop :=
  ∀ (s : State) (h : Handle) (a n : Word32) (rest : List Answer) (p bs : List Byte),
    s.Ready h → s.addr = some a → s.len = some n → s.readPreWren = false →
    let hdr : List Byte := [0x03, a.extractLsb' 16 8, a.extractLsb' 8 8, a.extractLsb' 0 8]
    (s.OracleSays [.ok p, .ok bs] rest → bs.length = n.toNat →
      exec .readData s = .next { ended .readData s
        [.cs h.csLine .low, .tx h.bus h.timeout hdr true, .rx h.bus h.timeout n.toNat (some bs),
         .cs h.csLine .high] rest .ok with rxbuf := some bs }) ∧
    (s.OracleSays [.fail] rest →
      exec .readData s = .next { ended .readData s
        [.cs h.csLine .low, .tx h.bus h.timeout hdr false, .cs h.csLine .high] rest .comm with rxbuf := none }) ∧
    (s.OracleSays [.ok p, .fail] rest →
      exec .readData s = .next { ended .readData s
        [.cs h.csLine .low, .tx h.bus h.timeout hdr true, .rx h.bus h.timeout n.toNat none, .cs h.csLine .high]
        rest .comm with rxbuf := none })

/-- R130 to R132, R135, with `READ_PRE_WREN = 1`: the write-enable pair first; a failed verification ends the read
with `REGVERIFY` and no read frame; otherwise as without it. -/
def Obligations.ReadDataOutcomesWithWriteEnable : Prop :=
  ∀ (s : State) (h : Handle) (a n : Word32) (rest : List Answer) (p q r bs : List Byte) (b : Byte),
    s.Ready h → s.addr = some a → s.len = some n → s.readPreWren = true →
    let hdr : List Byte := [0x03, a.extractLsb' 16 8, a.extractLsb' 8 8, a.extractLsb' 0 8]
    (s.OracleSays [.ok p, .ok q, .ok [b], .ok r, .ok bs] rest → b.getLsbD 1 = true → bs.length = n.toNat →
      exec .readData s = .next { ended .readData s
        (latchEvents h .writeEnable b ++ [.cs h.csLine .low, .tx h.bus h.timeout hdr true,
          .rx h.bus h.timeout n.toNat (some bs), .cs h.csLine .high]) rest .ok with rxbuf := some bs }) ∧
    (s.OracleSays [.ok p, .ok q, .ok [b]] rest → b.getLsbD 1 = false →
      exec .readData s = .next { ended .readData s (latchEvents h .writeEnable b) rest .regVerify with
        rxbuf := none }) ∧
    (s.OracleSays [.ok p, .ok q, .ok [b], .ok r, .fail] rest → b.getLsbD 1 = true →
      exec .readData s = .next { ended .readData s
        (latchEvents h .writeEnable b ++ [.cs h.csLine .low, .tx h.bus h.timeout hdr true,
          .rx h.bus h.timeout n.toNat none, .cs h.csLine .high]) rest .comm with rxbuf := none }) ∧
    (s.OracleSays [.fail] rest →
      exec .readData s = .next { ended .readData s
        [.cs h.csLine .low, .tx h.bus h.timeout [0x06] false, .cs h.csLine .high] rest .comm with rxbuf := none }) ∧
    (s.OracleSays [.ok p, .fail] rest →
      exec .readData s = .next { ended .readData s
        [.cs h.csLine .low, .tx h.bus h.timeout [0x06] true, .cs h.csLine .high,
          .cs h.csLine .low, .tx h.bus h.timeout [0x05] false, .cs h.csLine .high] rest .comm with rxbuf := none }) ∧
    (s.OracleSays [.ok p, .ok q, .fail] rest →
      exec .readData s = .next { ended .readData s
        [.cs h.csLine .low, .tx h.bus h.timeout [0x06] true, .cs h.csLine .high,
          .cs h.csLine .low, .tx h.bus h.timeout [0x05] true, .rx h.bus h.timeout 1 none, .cs h.csLine .high]
        rest .comm with rxbuf := none }) ∧
    (s.OracleSays [.ok p, .ok q, .ok [b], .fail] rest → b.getLsbD 1 = true →
      exec .readData s = .next { ended .readData s
        (latchEvents h .writeEnable b ++ [.cs h.csLine .low, .tx h.bus h.timeout hdr false, .cs h.csLine .high])
        rest .comm with rxbuf := none })

/-! ### Every environment: completion, stops, frames -/

/-- R150, R174, R45: where the transport answers every request, each of the nine operations started with its
operands in place ends, idle and not busy, with a result kind of its own (the chip-select primitives write none),
whatever the answers are. -/
def Obligations.OperationsEndWheneverAnswered : Prop :=
  ∀ (i : Instr) (s : State) (h : Handle), s.Ready h → s.operandsHold i = true → s.transportAnswers = true →
    ∃ t : State, exec i s = .next t ∧ t.busy = false ∧ t.seq = .idle ∧
      (writesResult i = true → t.csN = .high ∨ t.result = some .param) ∧
      (writesResult i = false → t.result = s.result) ∧
      (writesResult i = true → ∃ k ∈ resultKinds i s.readPreWren, t.result = some k)

/-- R150, R173: an operation whose first request is never answered is stuck. -/
def Obligations.StuckWhenNeverAnswered : Prop :=
  ∀ (i : Instr) (s : State) (h : Handle) (rest : List Answer), writesResult i = true → s.Ready h →
    s.operandsHold i = true → s.OracleSays [.never] rest →
    (i = .pageProgram → ∀ n, s.len = some n →
      ¬ 256 < n.toNat ∧ ∀ a, s.addr = some a → ¬ (n.toNat = 256 ∧ a.toNat % 256 ≠ 0)) →
    exec i s = .fault .transportSilent

/-- R182, R32: an operation is refused exactly when it is started while a handle register, or an operand it reads,
holds no value; the refusal names such a register. -/
def Obligations.MissingOperandsAreRefused : Prop :=
  ∀ (i : Instr) (s : State), s.running = false →
    (s.bus = none ∨ s.csLine = none ∨ s.timeout = none ∨ s.operandsHold i = false) →
    ∃ r : HostReg, exec i s = .refused (.operandNoValue r) ∧
      ((r = .bus ∧ s.bus = none) ∨ (r = .csLine ∧ s.csLine = none) ∨ (r = .timeout ∧ s.timeout = none) ∨
        (r = .addr ∧ s.addr = none) ∨ (r = .len ∧ s.len = none) ∨
        (r = .txbuf ∧ ∃ n, s.len = some n ∧ cellSlice s.txbuf 0 n.toNat = none))

/-- R29: what each operation leaves unchanged. `LEN`, every byte of `TXBUF`, the handle, `READ_PRE_WREN` and the
model's own fields always; `ADDR` except by `PAGE_PROGRAM`; `STATUS` except by `READ_STATUS`; `RXBUF` except by
`READ_DATA`; `RESULT` by the chip-select primitives. The trace only grows, and `OPSEL` holds the code started. -/
def Obligations.RegisterFrame : Prop :=
  ∀ (i : Instr) (s t : State), exec i s = .next t →
    t.len = s.len ∧ t.txbuf = s.txbuf ∧ (∀ k, cellRead t.txbuf k = cellRead s.txbuf k) ∧
      t.bus = s.bus ∧ t.csLine = s.csLine ∧ t.timeout = s.timeout ∧ t.readPreWren = s.readPreWren ∧
      t.inputs = s.inputs ∧ t.hostData = s.hostData ∧ t.grain = s.grain ∧
      (i ≠ .pageProgram → t.addr = s.addr) ∧ (i ≠ .readStatus → t.status = s.status) ∧
      (i ≠ .readData → t.rxbuf = s.rxbuf) ∧ (writesResult i = false → t.result = s.result) ∧
      t.opsel = some (encode i) ∧ t.busy = false ∧ t.seq = .idle ∧ (∃ tr, t.trace = s.trace ++ tr)

/-- R174: every operation ends in one of the kinds the table gives it and the two primitives write no result; and
every kind the table gives an operation is one it can end in. -/
def Obligations.ResultKindsPerOperation : Prop :=
  (∀ (i : Instr) (s t : State), exec i s = .next t →
    (writesResult i = true → ∃ k ∈ resultKinds i s.readPreWren, t.result = some k) ∧
      (writesResult i = false → t.result = s.result)) ∧
    ∀ (i : Instr) (pre : Bool), ∀ k ∈ resultKinds i pre,
      ∃ s t : State, s.readPreWren = pre ∧ exec i s = .next t ∧ t.result = some k

/-- R125, R126: `PAGE_PROGRAM` advances `ADDR` by `LEN` modulo 2^32 when it ends in `OK`, and leaves it alone on
every other path. -/
def Obligations.AddressAdvancesOnlyOnOk : Prop :=
  ∀ s t : State, exec .pageProgram s = .next t →
    (t.result = some .ok → ∃ a n : Word32, s.addr = some a ∧ s.len = some n ∧
      t.addr = some (BitVec.ofNat 32 (a.toNat + n.toNat))) ∧
      (t.result ≠ some .ok → t.addr = s.addr)

/-- R14, R135: `READ_DATA` leaves `RXBUF` with exactly `LEN` bytes when it ends in `OK`, and without a value on
every other path. -/
def Obligations.ReadDataFillsExactlyLen : Prop :=
  ∀ (s t : State) (n : Word32), s.len = some n → exec .readData s = .next t →
    (t.result = some .ok → ∃ b, t.rxbuf = some b ∧ b.length = n.toNat) ∧
      (t.result ≠ some .ok → t.rxbuf = none)

/-- R17, R101: `READ_STATUS` leaves a value in `STATUS` exactly when it ends in `OK`, and then the byte it
received. -/
def Obligations.StatusHoldsAValueOnlyOnOk : Prop :=
  ∀ (s t : State), exec .readStatus s = .next t →
    (t.result = some .ok → ∃ (h : Handle) (b : Byte), s.HasHandle h ∧ t.status = some b ∧ newEvents s t =
      [.cs h.csLine .low, .tx h.bus h.timeout [0x05] true, .rx h.bus h.timeout 1 (some [b]), .cs h.csLine .high]) ∧
      (t.result ≠ some .ok → t.result = some .comm ∧ t.status = none)

/-! ### Every environment: the bus trace -/

/-- R47: on every path of each of the seven operations, windows open and close alternately, every request lies
inside one, the last is closed, and the line ends high if any was opened. -/
def Obligations.ChipSelectPairedOnEveryPath : Prop :=
  ∀ (i : Instr) (s t : State), writesResult i = true → exec i s = .next t →
    csPaired (newEvents s t) = true ∧ (newEvents s t ≠ [] → t.csN = .high)

/-- R80: no frame begins with a byte outside the seven opcodes, and each operation's events obey this. -/
def Obligations.OnlyKnownOpcodesAreSent : Prop :=
  ∀ (i : Instr) (s t : State), exec i s = .next t → opcodesKnown (newEvents s t) = true

/-- R165, R167, R143: the primitives an operation performs are a prefix of those of its success path, with the
open window's `CsSet(1)` appended; nothing but that follows a failed request; `COMM` is reported exactly when one
failed; `REGVERIFY` cuts after the status window, `PARAM` before the first primitive; and `OK` and `IDMISMATCH`
come only when the prefix is the whole. -/
def Obligations.AbortsCutTheSuccessPath : Prop :=
  ∀ (i : Instr) (s t : State) (a n : Word32) (v : List Byte), writesResult i = true → exec i s = .next t →
    s.addr.getD 0 = a → s.len.getD 0 = n → (cellSlice s.txbuf 0 n.toNat).getD [] = v →
    (∃ k ≤ (successPrims i s.readPreWren a n v).length,
      (newEvents s t).map Event.prim = closeCut ((successPrims i s.readPreWren a n v).take k) ∧
        (t.result = some .ok ∨ t.result = some .idMismatch → k = (successPrims i s.readPreWren a n v).length) ∧
        (t.result = some .regVerify → k = (latchPrims .writeEnable).length) ∧
        (t.result = some .param → k = 0)) ∧
      stopsAtFailure (newEvents s t) = true ∧
      (t.result = some .comm ↔ (newEvents s t).any Event.failed = true)

/-- R79: on a path that ends in `OK` an operation performs exactly the frames of the table, in order, and the number
of windows, of `TX` events and of `RX` events is the table's; the two primitives record their one event. -/
def Obligations.SuccessPathFrames : Prop :=
  ∀ (i : Instr) (s t : State) (a n : Word32) (v : List Byte), exec i s = .next t →
    s.addr.getD 0 = a → s.len.getD 0 = n →
    (i = .pageProgram → v.length = n.toNat ∧ ∀ k < n.toNat, cellRead s.txbuf k = v[k]?) →
    (writesResult i = true → t.result = some .ok →
      (newEvents s t).map Event.prim = successPrims i s.readPreWren a n v ∧
        eventCounts (newEvents s t) = successCounts i s.readPreWren) ∧
      (i = .csAssert → (newEvents s t).map Event.prim = [.cs .low]) ∧
      (i = .csDeassert → (newEvents s t).map Event.prim = [.cs .high])

/-- R20, R40 to R42, R171: every event carries the handle's line, transport and timeout unchanged. -/
def Obligations.HandleValuesPassedUnchanged : Prop :=
  ∀ (i : Instr) (s t : State) (h : Handle), s.HasHandle h → exec i s = .next t →
    t.HasHandle h ∧ (newEvents s t).all (Event.carries h) = true

/-- R112: an erase or program frame is sent only after a write-enable of the same operation whose status byte had
bit 1 set. -/
def Obligations.MutatingFramesFollowVerifiedLatch : Prop :=
  ∀ (i : Instr) (s t : State), exec i s = .next t →
    ∀ (before after : List Event) (e : Event), newEvents s t = before ++ e :: after →
      (Event.sends 0x60 e = true ∨ Event.sends 0x02 e = true) →
      ∃ (h : Handle) (b : Byte), s.HasHandle h ∧ b.getLsbD 1 = true ∧ latchEvents h .writeEnable b <+: before

/-- R54: two addresses that differ only in bits 31:24 give the same events, answers left and result. -/
def Obligations.TopAddressByteIsNeverSent : Prop :=
  ∀ (i : Instr) (s t : State) (a a' : Word32), addr24 a = addr24 a' → exec i { s with addr := some a } = .next t →
    ∃ t', exec i { s with addr := some a' } = .next t' ∧ t'.trace = t.trace ∧ t'.transport = t.transport ∧
      t'.result = t.result

/-- R168, R26, R112: none of the seven operations depends on the result kind, the status byte, the received bytes
or the scratch an earlier one left: with any others in their place it does the same, and what it does not write
keeps them. -/
def Obligations.EarlierOutcomesDoNotMatter : Prop :=
  ∀ (i : Instr) (s : State) (r e : Option ResultKind) (x y : Option Byte) (hd idb rx rb : Option (List Byte)),
    writesResult i = true →
    exec i { s with
      result := r, status := y, rxbuf := rb, err := e, srTmp := x, hdr := hd, idTmp := idb, rxTmp := rx } =
      (match exec i s with
        | .next t => .next { t with
            status := if i = .readStatus then t.status else y, rxbuf := if i = .readData then t.rxbuf else rb }
        | .fault f => .fault f
        | .refused q => .refused q)

/-- R46: the block never reads the trace: with another trace before it, an operation does the same and appends
the same events. -/
def Obligations.TraceIsNeverRead : Prop :=
  ∀ (i : Instr) (s : State) (tr : List Event),
    exec i { s with trace := tr } =
      (match exec i s with
        | .next t => .next { t with trace := tr ++ newEvents s t }
        | .fault f => .fault f
        | .refused r => .refused r)

/-! ### The sequencer -/

/-- R142 to R149, R152: performed phase by phase, an operation ends after at most fourteen phases in the very state
of its atomic form; and it is refused at its start exactly when that is. -/
def Obligations.PhasesRefineTheOperation : Prop :=
  ∀ (i : Instr) (s : State),
    (∀ t, s.transportAnswers = true → startPhases i s = .next t → runPhases maxPhases t = exec i s) ∧
      ∀ r, startPhases i s = .refused r ↔ exec i s = .refused r

/-- R142: on a path that ends in `OK`, and for the two primitives, the sequencer visits exactly the phases of the
table, in order. -/
def Obligations.PhasesOfTheSuccessPath : Prop :=
  ∀ (i : Instr) (s t u : State), s.transportAnswers = true → startPhases i s = .next t → exec i s = .next u →
    (writesResult i = true → u.result = some .ok) →
    phasesVisited maxPhases t = successPhases i s.readPreWren

/-- The reset state meets the invariant of the sequencer. -/
def Obligations.ResetMeetsTheInvariant : Prop := State.reset.inv = true

/-- R18, R22, R23, R83, R142: from every state that meets the invariant (`BUSY` mirrors `SEQ`, the buffer is
canonical, `OPSEL` holds no reserved code, scratch is dead at `IDLE`, a running operation stands in a phase of its
own), whatever the input, a step gives a state that meets it. -/
def Obligations.StepKeepsTheInvariant : Prop :=
  ∀ s t : State, s.inv = true → step s = .next t → t.inv = true

/-- R150: in a state that meets the invariant, a running operation whose transport answers always performs its next
phase: `SEQ` moves forward in the order of its codes or back to `IDLE`, so there is no backward edge and no loop. -/
def Obligations.PhasesOnlyMoveForward : Prop :=
  ∀ s : State, s.inv = true → s.running = true → s.transportAnswers = true →
    ∃ t : State, phaseStep s = .next t ∧ (t.seq = .idle ∨ s.seq.code.toNat < t.seq.code.toNat) ∧
      t.transportAnswers = true ∧ t.inv = true

/-! ### The host's loop and the latch environment -/

/-- R85, R104: the polling loop polls first and counts after: it makes at most its bound of status reads, each one
window; it ends ready exactly with `OK` and WIP clear, fails exactly with `COMM` and no status, and times out with
WIP still set after `MAX_POLLS` polls. It is still polling only where the bound lies further on than the polls
followed, or is 0, which the count never meets (log entry 23). -/
def Obligations.PollingLoopExits : Prop :=
  ∀ (fuel maxPolls : Nat) (s t : State) (e : PollExit), s.grain = .atomic →
    waitReady fuel maxPolls 0 s = .next (e, t) →
    let polls := (newEvents s t).countP Event.opens
    polls ≤ fuel ∧ (maxPolls ≠ 0 → polls ≤ maxPolls) ∧
      (match e with
        | .ready => 0 < polls ∧ t.result = some .ok ∧ ∃ b, t.status = some b ∧ b.getLsbD 0 = false
        | .fail => 0 < polls ∧ t.result = some .comm ∧ t.status = none
        | .timeout => 0 < polls ∧ polls = maxPolls ∧ t.result = some .ok ∧ ∃ b, t.status = some b ∧ b.getLsbD 0 = true
        | .again n => n = polls ∧ polls = fuel ∧ (maxPolls = 0 ∨ fuel < maxPolls) ∧
            (0 < fuel → t.result = some .ok ∧ ∃ b, t.status = some b ∧ b.getLsbD 0 = true))

/-- R63, R85, R105: where the chip's internal operation completes within its next `4 * k + 3` choices (the environment
chooses before every primitive, and a poll has four: log entry 32), the polling loop ends ready within `k + 1` polls
if its bound allows them. The fairness is a premise on the environment, none of the block; the line is high, as R93
has the operations assume. -/
def Obligations.FairPollingEndsReady : Prop :=
  ∀ (k maxPolls : Nat) (s : State) (h : Handle) (e : LatchEnv), s.Ready h → s.csN = .high → s.grain = .atomic →
    s.transport.env = some e → e.completesWithin (4 * k + 3) = true → (maxPolls = 0 ∨ k + 1 ≤ maxPolls) →
    ∃ t, waitReady (k + 1) maxPolls 0 s = .next (.ready, t)

/-- R60 to R62: with the latch environment idle in the transport's place and the line high (R93), `WRITE_ENABLE` ends
in `OK` with its latch set, and `WRITE_DISABLE` in `OK` with it clear. -/
def Obligations.LatchEnvObeysTheLatchCommands : Prop :=
  ∀ (s : State) (h : Handle) (e : LatchEnv), s.Ready h → s.csN = .high → s.transport.env = some e →
    e.wip = false →
    (∃ t e', exec .writeEnable s = .next t ∧ t.result = some .ok ∧ t.transport.env = some e' ∧
      e'.wel = true ∧ e'.wip = false) ∧
    ∃ t e', exec .writeDisable s = .next t ∧ t.result = some .ok ∧ t.transport.env = some e' ∧
      e'.wel = false ∧ e'.wip = false

/-- R63, R65: with the latch environment idle in the transport's place and the line high (R93), an erase is accepted
and leaves it busy with the latch set until its completion step clears both bits; and the identity verifies. -/
def Obligations.LatchEnvErasesAndIdentifies : Prop :=
  ∀ (s : State) (h : Handle) (e : LatchEnv), s.Ready h → s.csN = .high → s.transport.env = some e →
    e.wip = false →
    (∃ t e' e'', exec .chipErase s = .next t ∧ t.result = some .ok ∧ t.transport.env = some e' ∧
      e'.wel = true ∧ e'.wip = true ∧ t.transport.envComplete.env = some e'' ∧ e''.wel = false ∧ e''.wip = false) ∧
    ∃ t, exec .verifyId s = .next t ∧ t.result = some .ok
end

