-- ==== Sys2Proof/Laws/Exec.lean ====
section
/-! SUPPORT. Once for each operation: all it can do when it answers a next state, whatever the transport answers.
Each lemma gives the events the operation added and what it left; later proofs cite these and do not unfold the
meanings. -/

namespace Sys2Proof.Machine

open Sys2Proof

/-- `t` is `s` after an operation that used the bus and ended in `k` with the events `tr`: idle, the line high,
scratch dead; the four outputs an operation may write stand as `t` has them (R29). -/
def EndedWith (i : Instr) (s t : State) (tr : List Event) (k : ResultKind) : Prop :=
  t = { s with
    opsel := some (encode i), addr := t.addr, result := some k, status := t.status, rxbuf := t.rxbuf,
    busy := false, csN := .high, seq := .idle, hdr := none, srTmp := none, idTmp := none, err := none,
    rxTmp := none, trace := s.trace ++ tr, transport := t.transport }

/-- The three ways a latch sequence ends in `COMM`, by its events (R109). -/
def latchFailures (h : Handle) (cmd : Header) : List (List Event) :=
  [[.cs h.csLine .low, .tx h.bus h.timeout cmd.bytes false, .cs h.csLine .high],
   [.cs h.csLine .low, .tx h.bus h.timeout cmd.bytes true, .cs h.csLine .high,
    .cs h.csLine .low, .tx h.bus h.timeout [0x05] false, .cs h.csLine .high],
   [.cs h.csLine .low, .tx h.bus h.timeout cmd.bytes true, .cs h.csLine .high,
    .cs h.csLine .low, .tx h.bus h.timeout [0x05] true, .rx h.bus h.timeout 1 none, .cs h.csLine .high]]

/-- A latch sequence inside an operation: `COMM` after one of three event lists, or the verdict on a byte; the
scratch it leaves does not matter to how the operation ends. -/
theorem latchSeq_outcomes (h : Handle) (cmd : Header) (want : Bool) (s : State) :
    ∃ tr, OnBus { s with srTmp := (latchSeq h cmd want s).2.srTmp } (latchSeq h cmd want s).2 tr ∧
      ((latchSeq h cmd want s).1 = .comm ∧ tr ∈ latchFailures h cmd ∨
        ∃ b, (latchSeq h cmd want s).1 = latchVerdict want b ∧ tr = latchEvents h cmd b) := by
  have aux : ∀ {t : State} {tr : List Event} (x : Option Byte), OnBus { s with srTmp := x } t tr →
      OnBus { s with srTmp := t.srTmp } t tr := by
    intro t tr x ho
    unfold OnBus at ho ⊢
    have hx : t.srTmp = x := by rw [ho]
    rw [hx]
    exact ho
  rcases latchSeq_cases h cmd want s with ⟨hk, ho⟩ | ⟨hk, ho⟩ | ⟨hk, ho⟩ | ⟨b, hk, ho⟩
  · exact ⟨_, aux _ ho, .inl ⟨hk, by simp [latchFailures]⟩⟩
  · exact ⟨_, aux _ ho, .inl ⟨hk, by simp [latchFailures]⟩⟩
  · exact ⟨_, aux _ ho, .inl ⟨hk, by simp [latchFailures]⟩⟩
  · exact ⟨_, aux _ ho, .inr ⟨b, hk, rfl⟩⟩

/-- New events of an operation that ended with `tr` are `tr`. -/
theorem EndedWith.newEvents {i : Instr} {s t : State} {tr : List Event} {k : ResultKind}
    (h : EndedWith i s t tr k) : newEvents s t = tr := by
  have : t.trace = s.trace ++ tr := by rw [h]
  simp [Machine.newEvents, this]

theorem EndedWith.result {i : Instr} {s t : State} {tr : List Event} {k : ResultKind}
    (h : EndedWith i s t tr k) : t.result = some k := by rw [h]

/-- `CS_ASSERT` answering a next state (R90). -/
theorem execCsAssert_spec {s t : State} (he : exec .csAssert s = .next t) :
    ∃ h, s.Ready h ∧ t = ((s.begin .csAssert).csSet h .low).toIdle := by
  obtain ⟨h, hr, hk⟩ := withIdleHandle_next he
  exact ⟨h, hr, (Host.Outcome.next.inj hk).symm⟩

/-- `CS_DEASSERT` answering a next state (R91). -/
theorem execCsDeassert_spec {s t : State} (he : exec .csDeassert s = .next t) :
    ∃ h, s.Ready h ∧ t = ((s.begin .csDeassert).csSet h .high).toIdle := by
  obtain ⟨h, hr, hk⟩ := withIdleHandle_next he
  exact ⟨h, hr, (Host.Outcome.next.inj hk).symm⟩

/-- `VERIFY_ID` answering a next state (R96): transmit failed, receive failed, or two bytes compared. -/
theorem execVerifyId_cases {s t : State} (he : exec .verifyId s = .next t) :
    ∃ h, s.Ready h ∧ t.addr = s.addr ∧ t.status = s.status ∧ t.rxbuf = s.rxbuf ∧
      (EndedWith .verifyId s t
          [.cs h.csLine .low, .tx h.bus h.timeout (Header.bytes .readId) false, .cs h.csLine .high] .comm ∨
        EndedWith .verifyId s t
          [.cs h.csLine .low, .tx h.bus h.timeout (Header.bytes .readId) true, .rx h.bus h.timeout 2 none,
           .cs h.csLine .high] .comm ∨
        ∃ b : List Byte, b.length = 2 ∧ EndedWith .verifyId s t
          [.cs h.csLine .low, .tx h.bus h.timeout (Header.bytes .readId) true, .rx h.bus h.timeout 2 (some b),
           .cs h.csLine .high] (idVerdict b)) := by
  obtain ⟨h, hr, hk⟩ := withIdleHandle_next he
  have ht := settle_next hk
  refine ⟨h, hr, ?_⟩
  have hw := window_sendReceive_cases h (Header.bytes .readId) 2
    { s.begin .verifyId with hdr := some (Header.bytes .readId) }
  have hc := window_csN h (sendReceive h (Header.bytes .readId) 2)
    { s.begin .verifyId with hdr := some (Header.bytes .readId) }
  unfold runVerifyId at ht
  generalize window h (sendReceive h (Header.bytes .readId) 2)
    { s.begin .verifyId with hdr := some (Header.bytes .readId) } = w at hw hc ht
  obtain ⟨ans, u⟩ := w
  simp only at hw hc ht
  rcases hw with ⟨hn, ho⟩ | ⟨hl, ho⟩
  · subst hn
    unfold OnBus at ho
    rw [hc] at ho
    subst ht
    rw [ho]
    exact ⟨rfl, rfl, rfl, .inl rfl⟩
  · unfold OnBus at ho
    rw [hc] at ho
    rcases ans with _ | b
    · subst ht
      rw [ho]
      exact ⟨rfl, rfl, rfl, .inr (.inl rfl)⟩
    · subst ht
      rw [ho]
      exact ⟨rfl, rfl, rfl, .inr (.inr ⟨b, hl b rfl, rfl⟩)⟩

/-- `READ_STATUS` answering a next state (R101). -/
theorem execReadStatus_cases {s t : State} (he : exec .readStatus s = .next t) :
    ∃ h, s.Ready h ∧ t.addr = s.addr ∧ t.rxbuf = s.rxbuf ∧
      ((t.status = none ∧ EndedWith .readStatus s t
          [.cs h.csLine .low, .tx h.bus h.timeout [0x05] false, .cs h.csLine .high] .comm) ∨
        (t.status = none ∧ EndedWith .readStatus s t
          [.cs h.csLine .low, .tx h.bus h.timeout [0x05] true, .rx h.bus h.timeout 1 none,
           .cs h.csLine .high] .comm) ∨
        ∃ b : Byte, t.status = some b ∧ EndedWith .readStatus s t
          [.cs h.csLine .low, .tx h.bus h.timeout [0x05] true, .rx h.bus h.timeout 1 (some [b]),
           .cs h.csLine .high] .ok) := by
  obtain ⟨h, hr, hk⟩ := withIdleHandle_next he
  have ht := settle_next hk
  refine ⟨h, hr, ?_⟩
  have hw := readStatusSeq_cases h (s.begin .readStatus)
  have hc := readStatusSeq_csN h (s.begin .readStatus)
  unfold runReadStatus at ht
  generalize readStatusSeq h (s.begin .readStatus) = w at hw hc ht
  obtain ⟨ans, u⟩ := w
  simp only at hw hc ht
  rcases hw with ⟨hn, ho⟩ | ⟨hn, ho⟩ | ⟨b, hn, ho⟩ <;> subst hn <;> unfold OnBus at ho <;> rw [hc] at ho <;>
    subst ht <;> rw [ho]
  · exact ⟨rfl, rfl, .inl ⟨rfl, rfl⟩⟩
  · exact ⟨rfl, rfl, .inr (.inl ⟨rfl, rfl⟩)⟩
  · exact ⟨rfl, rfl, .inr (.inr ⟨b, rfl, rfl⟩)⟩

/-- `WRITE_ENABLE` and `WRITE_DISABLE` alike: an operation that is one latch sequence. -/
theorem latchOp_cases {i : Instr} {s t : State} {h : Handle} {cmd : Header} {want : Bool}
    (ht : t = (latchSeq h cmd want (s.begin i)).2.complete (latchSeq h cmd want (s.begin i)).1) :
    t.addr = s.addr ∧ t.status = s.status ∧ t.rxbuf = s.rxbuf ∧
      ((∃ tr ∈ latchFailures h cmd, EndedWith i s t tr .comm) ∨
        ∃ b, EndedWith i s t (latchEvents h cmd b) (latchVerdict want b)) := by
  obtain ⟨tr, ho, hk⟩ := latchSeq_outcomes h cmd want (s.begin i)
  have hc := latchSeq_csN h cmd want (s.begin i)
  generalize latchSeq h cmd want (s.begin i) = w at ho hk hc ht
  obtain ⟨k, u⟩ := w
  simp only at ho hk hc ht
  unfold OnBus at ho
  rw [hc] at ho
  rcases hk with ⟨hk, hm⟩ | ⟨b, hk, hm⟩ <;> subst hk <;> subst ht <;> rw [ho]
  · exact ⟨rfl, rfl, rfl, .inl ⟨tr, hm, rfl⟩⟩
  · subst hm
    exact ⟨rfl, rfl, rfl, .inr ⟨b, rfl⟩⟩

/-- `WRITE_ENABLE` answering a next state (R108). -/
theorem execWriteEnable_cases {s t : State} (he : exec .writeEnable s = .next t) :
    ∃ h, s.Ready h ∧ t.addr = s.addr ∧ t.status = s.status ∧ t.rxbuf = s.rxbuf ∧
      ((∃ tr ∈ latchFailures h .writeEnable, EndedWith .writeEnable s t tr .comm) ∨
        ∃ b, EndedWith .writeEnable s t (latchEvents h .writeEnable b) (latchVerdict true b)) := by
  obtain ⟨h, hr, hk⟩ := withIdleHandle_next he
  exact ⟨h, hr, latchOp_cases (settle_next hk)⟩

/-- `WRITE_DISABLE` answering a next state (R111). -/
theorem execWriteDisable_cases {s t : State} (he : exec .writeDisable s = .next t) :
    ∃ h, s.Ready h ∧ t.addr = s.addr ∧ t.status = s.status ∧ t.rxbuf = s.rxbuf ∧
      ((∃ tr ∈ latchFailures h .writeDisable, EndedWith .writeDisable s t tr .comm) ∨
        ∃ b, EndedWith .writeDisable s t (latchEvents h .writeDisable b) (latchVerdict false b)) := by
  obtain ⟨h, hr, hk⟩ := withIdleHandle_next he
  exact ⟨h, hr, latchOp_cases (settle_next hk)⟩

/-- The verdict of a latch test is `OK` exactly when bit 1 is as wanted, else `REGVERIFY` (R109). -/
theorem latchVerdict_cases (want : Bool) (b : Byte) :
    (latchVerdict want b = .ok ∧ b.getLsbD 1 = want) ∨ (latchVerdict want b = .regVerify ∧ b.getLsbD 1 ≠ want) := by
  unfold latchVerdict statusWel
  split
  · exact .inl ⟨rfl, ‹_›⟩
  · exact .inr ⟨rfl, ‹_›⟩

/-- The internal write-enable of a composite operation: it failed in `COMM`, the latch was not verified, or it was
(R113, R123). What the sequence leaves is the state on the bus, its scratch aside. -/
theorem writeEnableSeq_cases (h : Handle) (s : State) :
    ∃ tr, OnBus { s with srTmp := (writeEnableSeq h s).2.srTmp } (writeEnableSeq h s).2 tr ∧
      (writeEnableSeq h s).2.csN = .high ∧
      (((writeEnableSeq h s).1 = .comm ∧ tr ∈ latchFailures h .writeEnable) ∨
        (∃ b, (writeEnableSeq h s).1 = .regVerify ∧ b.getLsbD 1 = false ∧ tr = latchEvents h .writeEnable b) ∨
        ∃ b, (writeEnableSeq h s).1 = .ok ∧ b.getLsbD 1 = true ∧ tr = latchEvents h .writeEnable b) := by
  obtain ⟨tr, ho, hk⟩ := latchSeq_outcomes h .writeEnable true s
  refine ⟨tr, ho, latchSeq_csN h .writeEnable true s, ?_⟩
  rcases hk with hk | ⟨b, hk, hm⟩
  · exact .inl hk
  · rcases latchVerdict_cases true b with ⟨hv, hb⟩ | ⟨hv, hb⟩
    · exact .inr (.inr ⟨b, hk.trans hv, hb, hm⟩)
    · exact .inr (.inl ⟨b, hk.trans hv, by simpa using hb, hm⟩)

/-- `CHIP_ERASE` answering a next state (R117). -/
theorem execChipErase_cases {s t : State} (he : exec .chipErase s = .next t) :
    ∃ h, s.Ready h ∧ t.addr = s.addr ∧ t.status = s.status ∧ t.rxbuf = s.rxbuf ∧
      ((∃ tr ∈ latchFailures h .writeEnable, EndedWith .chipErase s t tr .comm) ∨
        (∃ b, b.getLsbD 1 = false ∧ EndedWith .chipErase s t (latchEvents h .writeEnable b) .regVerify) ∨
        ∃ (b : Byte) (ok : Bool), b.getLsbD 1 = true ∧
          EndedWith .chipErase s t (latchEvents h .writeEnable b ++
            [.cs h.csLine .low, .tx h.bus h.timeout (Header.bytes .chipErase) ok, .cs h.csLine .high])
            (if ok then .ok else .comm)) := by
  obtain ⟨h, hr, hk⟩ := withIdleHandle_next he
  have ht := settle_next hk
  refine ⟨h, hr, ?_⟩
  obtain ⟨tr, ho, hc, hw⟩ := writeEnableSeq_cases h (s.begin .chipErase)
  unfold runChipErase at ht
  generalize writeEnableSeq h (s.begin .chipErase) = w at ho hc hw ht
  obtain ⟨k, u⟩ := w
  simp only at ho hc hw ht
  rcases hw with ⟨hk, hm⟩ | ⟨b, hk, hb, hm⟩ | ⟨b, hk, hb, hm⟩ <;> subst hk
  · unfold OnBus at ho
    rw [hc] at ho
    simp only [reduceCtorEq, if_false] at ht
    subst ht
    rw [ho]
    exact ⟨rfl, rfl, rfl, .inl ⟨tr, hm, rfl⟩⟩
  · unfold OnBus at ho
    rw [hc] at ho
    simp only [reduceCtorEq, if_false] at ht
    subst ht
    rw [ho, hm]
    exact ⟨rfl, rfl, rfl, .inr (.inl ⟨b, hb, rfl⟩)⟩
  · simp only [if_true] at ht
    have hx := ho.trans (window_busTx_spec h (Header.bytes .chipErase) u)
    have hc' := window_csN h (State.busTx h (Header.bytes .chipErase)) u
    generalize window h (State.busTx h (Header.bytes .chipErase)) u = x at hx hc' ht
    obtain ⟨ok, y⟩ := x
    simp only at hx hc' ht
    unfold OnBus at hx
    rw [hc', hm] at hx
    cases ok <;> (try simp only [Bool.false_eq_true, if_false] at ht) <;> (try simp only [if_true] at ht) <;>
      subst ht <;> rw [hx]
    · exact ⟨rfl, rfl, rfl, .inr (.inr ⟨b, false, hb, rfl⟩)⟩
    · exact ⟨rfl, rfl, rfl, .inr (.inr ⟨b, true, hb, rfl⟩)⟩

/-- `PAGE_PROGRAM` answering a next state (R120): rejected with no event at all, stopped by its write-enable, or
ended after its own frame; `ADDR` advances in one case only (R125, R126). -/
theorem execPageProgram_cases {s t : State} (he : exec .pageProgram s = .next t) :
    ∃ h a n, s.Ready h ∧ s.addr = some a ∧ s.len = some n ∧ t.status = s.status ∧ t.rxbuf = s.rxbuf ∧
      ((BadParams a n ∧ t = (s.begin .pageProgram).raise .param) ∨
        (∃ v, lengthError n = false ∧ alignError a n = false ∧
          cellSlice s.txbuf 0 n.toNat = some v ∧
          ((∃ tr ∈ latchFailures h .writeEnable, t.addr = s.addr ∧ EndedWith .pageProgram s t tr .comm) ∨
            (∃ b, b.getLsbD 1 = false ∧ t.addr = s.addr ∧
              EndedWith .pageProgram s t (latchEvents h .writeEnable b) .regVerify) ∨
            (∃ b, b.getLsbD 1 = true ∧ t.addr = s.addr ∧
              EndedWith .pageProgram s t (latchEvents h .writeEnable b ++
                [.cs h.csLine .low, .tx h.bus h.timeout (Header.bytes (.pageProgram (addr24 a))) false,
                 .cs h.csLine .high]) .comm) ∨
            ∃ (b : Byte) (ok : Bool), b.getLsbD 1 = true ∧ t.addr = (if ok then some (a + n) else s.addr) ∧
              EndedWith .pageProgram s t (latchEvents h .writeEnable b ++
                [.cs h.csLine .low, .tx h.bus h.timeout (Header.bytes (.pageProgram (addr24 a))) true,
                 .tx h.bus h.timeout v ok, .cs h.csLine .high]) (if ok then .ok else .comm)))) := by
  obtain ⟨h, hr, hk⟩ := withIdleHandle_next he
  obtain ⟨a, n, ha, hn, ⟨hb, hk⟩ | ⟨hl, hal, hk⟩⟩ := withProgramParams_next hk
  · have ht := (Host.Outcome.next.inj hk).symm
    subst ht
    exact ⟨h, a, n, hr, ha, hn, rfl, rfl, .inl ⟨hb, rfl⟩⟩
  refine ⟨h, a, n, hr, ha, hn, ?_⟩
  obtain ⟨v, hv, hk⟩ := withPayload_next hk
  have ht := settle_next hk
  suffices t.status = s.status ∧ t.rxbuf = s.rxbuf ∧ _ from
    ⟨this.1, this.2.1, .inr ⟨v, hl, hal, hv, this.2.2⟩⟩
  obtain ⟨tr, ho, hc, hw⟩ := writeEnableSeq_cases h (s.begin .pageProgram)
  unfold runPageProgram at ht
  generalize writeEnableSeq h (s.begin .pageProgram) = w at ho hc hw ht
  obtain ⟨k, u⟩ := w
  simp only at ho hc hw ht
  unfold OnBus at ho
  rcases hw with ⟨hk, hm⟩ | ⟨b, hk, hb, hm⟩ | ⟨b, hk, hb, hm⟩ <;> subst hk
  · rw [hc] at ho
    simp only [reduceCtorEq, if_false] at ht
    subst ht
    rw [ho]
    exact ⟨rfl, rfl, .inl ⟨tr, hm, rfl, rfl⟩⟩
  · rw [hc] at ho
    simp only [reduceCtorEq, if_false] at ht
    subst ht
    rw [ho, hm]
    exact ⟨rfl, rfl, .inr (.inl ⟨b, hb, rfl, rfl⟩)⟩
  · simp only [if_true] at ht
    subst hm
    have hx := window_sendSend_cases h (Header.bytes (.pageProgram (addr24 a))) v
      { u with hdr := some (Header.bytes (.pageProgram (addr24 a))) }
    have hc' := window_csN h (sendSend h (Header.bytes (.pageProgram (addr24 a))) v)
      { u with hdr := some (Header.bytes (.pageProgram (addr24 a))) }
    unfold memWrite at ht
    generalize window h (sendSend h (Header.bytes (.pageProgram (addr24 a))) v)
      { u with hdr := some (Header.bytes (.pageProgram (addr24 a))) } = x at hx hc' ht
    obtain ⟨ok, y⟩ := x
    simp only at hx hc' ht
    unfold OnBus at hx
    rw [hc', ho] at hx
    simp only [List.append_assoc] at hx
    rcases hx with ⟨hok, hx⟩ | hx
    · subst hok
      simp only [Bool.false_eq_true, if_false] at ht
      subst ht
      rw [hx]
      exact ⟨rfl, rfl, .inr (.inr (.inl ⟨b, hb, rfl, rfl⟩))⟩
    · cases ok
      · simp only [Bool.false_eq_true, if_false] at ht
        subst ht
        rw [hx]
        exact ⟨rfl, rfl, .inr (.inr (.inr ⟨b, false, hb, rfl, rfl⟩))⟩
      · simp only [if_true] at ht
        subst ht
        rw [hx]
        exact ⟨rfl, rfl, .inr (.inr (.inr ⟨b, true, hb, rfl, rfl⟩))⟩

/-- The read frame of `READ_DATA` and its end (R132, R135), from a state that differs from `s` on the bus only. -/
theorem runReadFrame_cases (h : Handle) (a n : Word32) (u : State) :
    ∃ ans : Option (List Byte), (∀ b, ans = some b → b.length = n.toNat) ∧
      (runReadFrame h a n u).rxbuf = ans ∧ (runReadFrame h a n u).csN = .high ∧
      ∃ tr, (ans = none ∧ tr = [.cs h.csLine .low,
              .tx h.bus h.timeout (Header.bytes (.readBytes (addr24 a))) false, .cs h.csLine .high] ∨
            tr = [.cs h.csLine .low, .tx h.bus h.timeout (Header.bytes (.readBytes (addr24 a))) true,
              .rx h.bus h.timeout n.toNat ans, .cs h.csLine .high]) ∧
        runReadFrame h a n u = ({ u with
          csN := .high, rxbuf := ans, trace := u.trace ++ tr,
          transport := (runReadFrame h a n u).transport }).complete (if ans.isSome then .ok else .comm) := by
  have hx := window_sendReceive_cases h (Header.bytes (.readBytes (addr24 a))) n.toNat
    { u with hdr := some (Header.bytes (.readBytes (addr24 a))) }
  have hc := window_csN h (sendReceive h (Header.bytes (.readBytes (addr24 a))) n.toNat)
    { u with hdr := some (Header.bytes (.readBytes (addr24 a))) }
  unfold runReadFrame memRead
  generalize window h (sendReceive h (Header.bytes (.readBytes (addr24 a))) n.toNat)
    { u with hdr := some (Header.bytes (.readBytes (addr24 a))) } = x at hx hc ⊢
  obtain ⟨ans, y⟩ := x
  simp only at hx hc ⊢
  unfold OnBus at hx
  rw [hc] at hx
  rcases hx with ⟨hn, hx⟩ | ⟨hl, hx⟩
  · subst hn
    rw [hx]
    exact ⟨none, by simp, rfl, rfl, _, .inl ⟨rfl, rfl⟩, rfl⟩
  · refine ⟨ans, hl, ?_⟩
    rw [hx]
    rcases ans with _ | b
    · exact ⟨rfl, rfl, _, .inr rfl, rfl⟩
    · exact ⟨rfl, rfl, _, .inr rfl, rfl⟩

/-- `READ_DATA` answering a next state (R130, R131, R135). `pre` are the events of its write-enable, if it has one. -/
theorem execReadData_cases {s t : State} (he : exec .readData s = .next t) :
    ∃ h a n, s.Ready h ∧ s.addr = some a ∧ s.len = some n ∧ t.addr = s.addr ∧ t.status = s.status ∧
      ((s.readPreWren = true ∧ t.rxbuf = none ∧
          ∃ tr ∈ latchFailures h .writeEnable, EndedWith .readData s t tr .comm) ∨
        (s.readPreWren = true ∧ t.rxbuf = none ∧
          ∃ b, b.getLsbD 1 = false ∧ EndedWith .readData s t (latchEvents h .writeEnable b) .regVerify) ∨
        ∃ pre, ((s.readPreWren = true ∧ ∃ b, b.getLsbD 1 = true ∧ pre = latchEvents h .writeEnable b) ∨
            (s.readPreWren = false ∧ pre = [])) ∧
          ((t.rxbuf = none ∧ EndedWith .readData s t (pre ++ [.cs h.csLine .low,
              .tx h.bus h.timeout (Header.bytes (.readBytes (addr24 a))) false, .cs h.csLine .high]) .comm) ∨
            (t.rxbuf = none ∧ EndedWith .readData s t (pre ++ [.cs h.csLine .low,
              .tx h.bus h.timeout (Header.bytes (.readBytes (addr24 a))) true,
              .rx h.bus h.timeout n.toNat none, .cs h.csLine .high]) .comm) ∨
            ∃ b : List Byte, b.length = n.toNat ∧ t.rxbuf = some b ∧ EndedWith .readData s t (pre ++
              [.cs h.csLine .low, .tx h.bus h.timeout (Header.bytes (.readBytes (addr24 a))) true,
               .rx h.bus h.timeout n.toNat (some b), .cs h.csLine .high]) .ok)) := by
  obtain ⟨h, hr, hk⟩ := withIdleHandle_next he
  obtain ⟨a, n, ha, hn, hk⟩ := withAddrLen_next hk
  have ht := settle_next hk
  refine ⟨h, a, n, hr, ha, hn, ?_⟩
  unfold runReadData at ht
  cases hpre : s.readPreWren
  · have hpre' : (s.begin .readData).readPreWren = false := hpre
    simp only [hpre', Bool.false_eq_true, if_false] at ht
    obtain ⟨ans, hl, hrx, -, tr, htr, hu⟩ := runReadFrame_cases h a n (s.begin .readData)
    rw [← ht] at hu hrx
    rw [hu]
    rcases htr with ⟨hn, htr⟩ | htr
    · subst hn htr
      exact ⟨rfl, rfl, .inr (.inr ⟨[], .inr ⟨rfl, rfl⟩, .inl ⟨rfl, rfl⟩⟩)⟩
    · subst htr
      rcases ans with _ | b
      · exact ⟨rfl, rfl, .inr (.inr ⟨[], .inr ⟨rfl, rfl⟩, .inr (.inl ⟨rfl, rfl⟩)⟩)⟩
      · exact ⟨rfl, rfl, .inr (.inr ⟨[], .inr ⟨rfl, rfl⟩, .inr (.inr ⟨b, hl b rfl, rfl, rfl⟩)⟩)⟩
  · have hpre' : (s.begin .readData).readPreWren = true := hpre
    simp only [hpre', if_true] at ht
    obtain ⟨tr, ho, hc, hw⟩ := writeEnableSeq_cases h (s.begin .readData)
    generalize writeEnableSeq h (s.begin .readData) = w at ho hc hw ht
    obtain ⟨k, u⟩ := w
    simp only at ho hc hw ht
    unfold OnBus at ho
    rcases hw with ⟨hk, hm⟩ | ⟨b, hk, hb, hm⟩ | ⟨b, hk, hb, hm⟩ <;> subst hk
    · rw [hc] at ho
      simp only [reduceCtorEq, if_false] at ht
      subst ht
      rw [ho]
      exact ⟨rfl, rfl, .inl ⟨rfl, rfl, tr, hm, rfl⟩⟩
    · rw [hc] at ho
      simp only [reduceCtorEq, if_false] at ht
      subst ht
      rw [ho, hm]
      exact ⟨rfl, rfl, .inr (.inl ⟨rfl, rfl, b, hb, rfl⟩)⟩
    · simp only [if_true] at ht
      subst hm
      obtain ⟨ans, hl, hrx, -, tr, htr, hu⟩ := runReadFrame_cases h a n u
      rw [← ht] at hu hrx
      rw [ho] at hu
      simp only [List.append_assoc] at hu
      rw [hu]
      rcases htr with ⟨hn, htr⟩ | htr
      · subst hn htr
        exact ⟨rfl, rfl, .inr (.inr ⟨_, .inl ⟨rfl, b, hb, rfl⟩, .inl ⟨rfl, rfl⟩⟩)⟩
      · subst htr
        rcases ans with _ | bs
        · exact ⟨rfl, rfl, .inr (.inr ⟨_, .inl ⟨rfl, b, hb, rfl⟩, .inr (.inl ⟨rfl, rfl⟩)⟩)⟩
        · exact ⟨rfl, rfl, .inr (.inr ⟨_, .inl ⟨rfl, b, hb, rfl⟩, .inr (.inr ⟨bs, hl bs rfl, rfl, rfl⟩)⟩)⟩

/-! ### The host's loop -/

/-- In the atomic grain `READ_STATUS` is over as soon as it is started (R84, R152). -/
theorem operate_readStatus {s : State} (hg : s.grain = .atomic) : operate .readStatus s = exec .readStatus s := by
  have hd : decodeOpsel (encode .readStatus) = .ok .readStatus := rfl
  have hstart : startOperation (encode .readStatus) s = exec .readStatus s := by
    unfold startOperation
    split
    · rename_i hr
      simp [exec, execReadStatus, withIdleHandle, hr]
    · simp only [hd, hg]
  unfold operate
  rw [hstart]
  cases he : exec .readStatus s with
  | fault f => rfl
  | refused r => rfl
  | next t =>
    obtain ⟨h, -, -, -, hc⟩ := execReadStatus_cases he
    have hi : t.seq = .idle := by
      rcases hc with ⟨-, hw⟩ | ⟨-, hw⟩ | ⟨b, -, hw⟩ <;> rw [hw]
    simp [maxPhases, runPhases, hi]

/-- A poll answering (R85): its `READ_STATUS` failed, or delivered a byte that decides the loop's next turn. -/
theorem pollOnce_cases {maxPolls n : Nat} {s t : State} {e : PollExit} (hg : s.grain = .atomic)
    (hp : pollOnce maxPolls n s = .next (e, t)) :
    exec .readStatus s = .next t ∧
      ((t.result = some .comm ∧ t.status = none ∧ e = .fail) ∨
        ∃ b, t.result = some .ok ∧ t.status = some b ∧
          e = if statusWip b then (if n + 1 = maxPolls then .timeout else .again (n + 1)) else .ready) := by
  unfold pollOnce at hp
  rw [operate_readStatus hg] at hp
  cases he : exec .readStatus s with
  | fault f => simp [he] at hp
  | refused r => simp [he] at hp
  | next u =>
    obtain ⟨h, -, -, -, hc⟩ := execReadStatus_cases he
    rcases hc with ⟨hs, hw⟩ | ⟨hs, hw⟩ | ⟨b, hs, hw⟩
    · simp only [he, hw.result, held_some, reduceCtorEq, if_false, Host.Outcome.next.injEq, Prod.mk.injEq] at hp
      obtain ⟨rfl, rfl⟩ := hp
      exact ⟨rfl, .inl ⟨hw.result, hs, rfl⟩⟩
    · simp only [he, hw.result, held_some, reduceCtorEq, if_false, Host.Outcome.next.injEq, Prod.mk.injEq] at hp
      obtain ⟨rfl, rfl⟩ := hp
      exact ⟨rfl, .inl ⟨hw.result, hs, rfl⟩⟩
    · simp only [he, hw.result, hs, held_some, if_true] at hp
      split at hp <;> rename_i hb <;> simp only [Host.Outcome.next.injEq, Prod.mk.injEq] at hp <;>
        obtain ⟨rfl, rfl⟩ := hp
      · exact ⟨rfl, .inr ⟨b, hw.result, hs, by simp [hb]⟩⟩
      · exact ⟨rfl, .inr ⟨b, hw.result, hs, by simp [hb]⟩⟩

end Sys2Proof.Machine
end

