-- ==== Sys2Proof/Tests/Slice0.lean ====
section
/-! SUPPORT. Tests of the model's own: the smoke test of well-formedness, words and frames written out from the
spec's tables, the vectors of 95_test_vectors (one step each), and for every obligation with hypotheses a concrete
state and operands that meet them. Expected values are the spec's, not the model's. -/

namespace Sys2Proof.Tests

open Sys2Proof Sys2Proof.Machine

/-! ### Helpers -/

/-- The handle of every test. -/
def dev : Handle := { bus := 7, csLine := { port := 1, pin := 4 }, timeout := 100 }

/-- After reset, with the handle written and the transport's next answers given. -/
def start (script : List Answer) : State :=
  { State.reset with
    bus := some dev.bus, csLine := some dev.csLine, timeout := some dev.timeout,
    transport := { script := script, draws := 0, env := none } }

/-- `start` with `ADDR` and `LEN`. -/
def at_ (script : List Answer) (a n : Word32) : State := { start script with addr := some a, len := some n }

/-- `TXBUF[i] = i` for the first `n` elements, as in program P2. -/
def ramp (n : Nat) : List Host.Cell := (List.range n).map fun k => (k, BitVec.ofNat 8 k)

/-- The bytes of `ramp`. -/
def rampBytes (n : Nat) : List Byte := (List.range n).map fun k => BitVec.ofNat 8 k

/-- The transport's plain `ok` to a transmit. -/
def ok : Answer := .ok []

/-- An outcome is a next state with a property. -/
def endsIn (o : Outcome) (p : State → Bool) : Bool :=
  match o with
  | .next t => p t
  | .fault _ => false
  | .refused _ => false

/-- An outcome is the given fault. -/
def faultsWith (o : Outcome) (f : Fault) : Bool :=
  match o with
  | .next _ => false
  | .fault g => g == f
  | .refused _ => false

/-- An outcome is the given refusal. -/
def refusedWith (o : Outcome) (r : Refusal) : Bool :=
  match o with
  | .next _ => false
  | .fault _ => false
  | .refused q => q == r

/-- `CS(0)`, `CS(1)`, `TX` and `RX` of the vectors. -/
def cs0 : Event := .cs dev.csLine .low
def cs1 : Event := .cs dev.csLine .high
def tx (bytes : List Byte) (good : Bool := true) : Event := .tx dev.bus dev.timeout bytes good
def rx (bytes : List Byte) : Event := .rx dev.bus dev.timeout bytes.length (some bytes)
def rxFail (n : Nat) : Event := .rx dev.bus dev.timeout n none

/-- `WE(s)` of 95_test_vectors section 0, written out. -/
def we (s : Byte) : List Event := [cs0, tx [0x06], cs1, cs0, tx [0x05], rx [s], cs1]

/-- `RESULT` and the whole trace. -/
def gives (o : Outcome) (k : ResultKind) (tr : List Event) : Bool :=
  endsIn o fun t => t.result == some k && t.trace == tr && t.csN == .high && !t.busy && t.transport.script == []

/-! ### Well-formedness: one ill-formed term for each check -/

theorem test_wf_operations : (Instr.all.all Instr.wellFormed) = true := by decide
theorem test_wf_txbuf_index :
    HostAccess.wellFormed (.writeTxbuf 255 0) = true ∧ HostAccess.wellFormed (.writeTxbuf 256 0) = false := by decide
theorem test_wf_buffer_ports :
    HostAccess.wellFormed (.read .txbuf) = false ∧ HostAccess.wellFormed (.read .rxbuf) = false := by decide
set_option maxRecDepth 20000 in
theorem test_wf_payload_too_long :
    Line.wellFormed [] (.setTxbuf (List.replicate 257 0)) = false := by decide
theorem test_wf_goto_without_label : programWellFormed [.goto 1] = false := by decide
theorem test_wf_branch_without_label :
    programWellFormed [.ifResultNotOk 1, .label 2] = false ∧ programWellFormed [.ifStatusReady 1] = false := by decide
theorem test_wf_wait_without_label : programWellFormed [.waitReady 3 1 2 9, .label 1, .label 2] = false := by decide
theorem test_wf_label_twice : programWellFormed [.label 1, .label 1] = false := by decide
theorem test_wf_program : programWellFormed [.label 1, .op .readStatus, .ifStatusReady 2, .goto 1, .label 2] = true := by
  decide

/-! ### Decoding: the codes of R82 bit by bit -/

theorem test_decode_cs_assert : decodeTableWord 8 0b00000001 = some .csAssert := by decide
theorem test_decode_cs_deassert : decodeTableWord 8 0b00000010 = some .csDeassert := by decide
theorem test_decode_verify_id : decodeTableWord 8 0b00000011 = some .verifyId := by decide
theorem test_decode_read_status : decodeTableWord 8 0b00000100 = some .readStatus := by decide
theorem test_decode_write_enable : decodeTableWord 8 0b00000101 = some .writeEnable := by decide
theorem test_decode_write_disable : decodeTableWord 8 0b00000110 = some .writeDisable := by decide
theorem test_decode_chip_erase : decodeTableWord 8 0b00000111 = some .chipErase := by decide
theorem test_decode_page_program : decodeTableWord 8 0b00001000 = some .pageProgram := by decide
theorem test_decode_read_data : decodeTableWord 8 0b00001001 = some .readData := by decide
/-- R83: 0 and 10 to 15 are reserved; a word with a bit above bit 3 is no code. -/
theorem test_decode_reserved :
    ([0, 10, 11, 12, 13, 14, 15, 0x11, 0x80, 0xFF].all fun w => (decodeTableWord 8 w).isNone) = true := by decide
/-- No two rows of the table of R82 overlap. -/
theorem test_opsel_rows_disjoint :
    opselTable.Pairwise (fun r q => r.pattern &&& (r.mask &&& q.mask) ≠ q.pattern &&& (r.mask &&& q.mask)) := by decide
/-- R72 to R76: headers, one of each family, from their formats. -/
theorem test_header_words :
    decodeHeader [0x90, 0x00, 0x00, 0x00] = .ok .readId ∧ decodeHeader [0x05] = .ok .readStatus ∧
      decodeHeader [0x06] = .ok .writeEnable ∧ decodeHeader [0x04] = .ok .writeDisable ∧
      decodeHeader [0x60] = .ok .chipErase ∧ decodeHeader [0x02, 0x01, 0x23, 0x45] = .ok (.pageProgram 0x012345) ∧
      decodeHeader [0x03, 0x80, 0x00, 0x00] = .ok (.readBytes 0x800000) := by
  refine ⟨?_, ?_, ?_, ?_, ?_, ?_, ?_⟩ <;> rfl
/-- R80: other first bytes, and known ones with another format, are refused by name. -/
theorem test_header_refused :
    decodeHeader [0x9F] = .error (.unknownOpcode 0x9F) ∧ decodeHeader [0x06, 0x00] = .error (.badFormat 0x06) ∧
      decodeHeader [0x90, 0x00, 0x00] = .error (.badFormat 0x90) ∧ decodeHeader [] = .error .empty := by
  refine ⟨?_, ?_, ?_, ?_⟩ <;> rfl
/-- V2.1 to V2.8: address assembly. -/
theorem test_be24_vectors :
    be24 (addr24 0x00000000) = [0x00, 0x00, 0x00] ∧ be24 (addr24 0x00000100) = [0x00, 0x01, 0x00] ∧
      be24 (addr24 0x00012345) = [0x01, 0x23, 0x45] ∧ be24 (addr24 0x000FFFFF) = [0x0F, 0xFF, 0xFF] ∧
      be24 (addr24 0x00FFFFFF) = [0xFF, 0xFF, 0xFF] ∧ be24 (addr24 0x12ABCDEF) = [0xAB, 0xCD, 0xEF] ∧
      be24 (addr24 0xFF000000) = [0x00, 0x00, 0x00] ∧ be24 (addr24 0x00800000) = [0x80, 0x00, 0x00] := by decide

/-! ### Vectors, at most two for each operation -/

/-- V3.01: the line goes low, `RESULT` is not written. -/
theorem test_cs_assert :
    endsIn (exec .csAssert { start [] with result := some .idMismatch }) (fun t =>
      t.csN == .low && t.result == some .idMismatch && t.trace == [cs0] && !t.busy) = true := by decide
/-- V3.03. -/
theorem test_cs_deassert :
    endsIn (exec .csDeassert { start [] with csN := .low }) (fun t =>
      t.csN == .high && t.result == none && t.trace == [cs1]) = true := by decide
/-- V3.1. -/
theorem test_verify_id_ok :
    gives (exec .verifyId (start [ok, .ok [0xC2, 0x14]])) .ok [cs0, tx [0x90, 0, 0, 0], rx [0xC2, 0x14], cs1] = true := by
  decide
/-- V3.2, swapped bytes. -/
theorem test_verify_id_swapped :
    gives (exec .verifyId (start [ok, .ok [0x14, 0xC2]])) .idMismatch
      [cs0, tx [0x90, 0, 0, 0], rx [0x14, 0xC2], cs1] = true := by decide
/-- V4.5: bits 7:2 pass through. -/
theorem test_read_status_passes_bits :
    endsIn (exec .readStatus (start [ok, .ok [0xFC]])) (fun t =>
      t.result == some .ok && t.status == some 0xFC && t.trace == [cs0, tx [0x05], rx [0xFC], cs1]) = true := by decide
/-- V4.8: the old status is gone. -/
theorem test_read_status_failed :
    endsIn (exec .readStatus { start [ok, .fail] with status := some 2 }) (fun t =>
      t.result == some .comm && t.status == none && t.trace == [cs0, tx [0x05], rxFail 1, cs1]) = true := by decide
/-- V5.1. -/
theorem test_write_enable_ok : gives (exec .writeEnable (start [ok, ok, .ok [0x02]])) .ok (we 0x02) = true := by decide
/-- V5.5: every bit set but bit 1. -/
theorem test_write_enable_unverified :
    gives (exec .writeEnable (start [ok, ok, .ok [0xFD]])) .regVerify (we 0xFD) = true := by decide
/-- V5.12: only bit 1 is looked at. -/
theorem test_write_disable_ok :
    gives (exec .writeDisable (start [ok, ok, .ok [0xFD]])) .ok
      [cs0, tx [0x04], cs1, cs0, tx [0x05], rx [0xFD], cs1] = true := by decide
/-- V5.16. -/
theorem test_write_disable_status_failed :
    gives (exec .writeDisable (start [ok, .fail])) .comm
      [cs0, tx [0x04], cs1, cs0, tx [0x05] false, cs1] = true := by decide
/-- V5.20 (and V8.9: no operand register is needed). -/
theorem test_chip_erase_ok :
    gives (exec .chipErase (start [ok, ok, .ok [0x02], ok])) .ok (we 0x02 ++ [cs0, tx [0x60], cs1]) = true := by decide
/-- The latch not verified: no erase frame (R113). -/
theorem test_chip_erase_unverified :
    gives (exec .chipErase (start [ok, ok, .ok [0x00]])) .regVerify (we 0x00) = true := by decide
/-- V1.3. -/
theorem test_page_program_ok :
    endsIn (exec .pageProgram { at_ [ok, ok, .ok [0x02], ok, ok] 0 1 with txbuf := [(0, 0x5A)] }) (fun t =>
      t.result == some .ok && t.addr == some 1 &&
        t.trace == we 0x02 ++ [cs0, tx [0x02, 0, 0, 0], tx [0x5A], cs1]) = true := by decide
/-- V1.5: the alignment check, before any event. -/
theorem test_page_program_misaligned :
    endsIn (exec .pageProgram (at_ [] 0x0012FF 256)) (fun t =>
      t.result == some .param && t.addr == some 0x0012FF && t.trace == [] && t.csN == .high) = true := by decide
/-- V7.10. -/
theorem test_read_data_plain :
    endsIn (exec .readData { at_ [ok, .ok [0x11, 0x22, 0x33, 0x44]] 0x10 4 with readPreWren := false }) (fun t =>
      t.result == some .ok && t.rxbuf == some [0x11, 0x22, 0x33, 0x44] && t.addr == some 0x10 &&
        t.trace == [cs0, tx [0x03, 0, 0, 0x10], rx [0x11, 0x22, 0x33, 0x44], cs1]) = true := by decide
/-- V7.8: an empty read leaves an empty sequence, which is a value. -/
theorem test_read_data_empty :
    endsIn (exec .readData (at_ [ok, ok, .ok [0x02], ok, .ok []] 0x10 0)) (fun t =>
      t.result == some .ok && t.rxbuf == some [] && t.trace == we 0x02 ++ [cs0, tx [0x03, 0, 0, 0x10], rx [], cs1]) =
      true := by decide

/-! ### The host port, the polling loop, reset -/

/-- V8.1, V8.10. -/
theorem test_reserved_and_unassigned :
    refusedWith (hostAccess (.write 0 0 (.bits 12)) (start [])) (.reservedOpsel 12) = true ∧
      refusedWith (hostAccess (.read 11 0) (start [])) (.unassignedRegister 11) = true := by decide
/-- V8.2, V8.3. -/
theorem test_busy_refuses :
    refusedWith (hostAccess (.write 0 0 (.bits 4)) { start [] with busy := true }) .busy = true ∧
      refusedWith (hostAccess (.write 1 0 (.bits 4)) { start [] with busy := true }) .busy = true := by decide
/-- V8.4, V8.7, V8.8. -/
theorem test_no_value :
    faultsWith (hostAccess (.read 3 0) (start [])) (.readNoValue .result) = true ∧
      refusedWith (exec .pageProgram { start [] with len := some 1 }) (.operandNoValue .addr) = true ∧
      refusedWith (exec .pageProgram { start [] with len := some 257 }) (.operandNoValue .addr) = true ∧
      refusedWith (exec .readStatus { start [] with timeout := none }) (.operandNoValue .timeout) = true := by decide
/-- V4.10: ready on the third poll, which the bound 3 still allows. -/
theorem test_wait_ready_third :
    (match waitReady 3 3 0 (start [ok, .ok [3], ok, .ok [1], ok, .ok [0]]) with
      | .next (e, t) => e == .ready && t.status == some 0
      | _ => false) = true := by decide
/-- V4.11: three busy polls. -/
theorem test_wait_ready_timeout :
    (match waitReady 3 3 0 (start [ok, .ok [1], ok, .ok [1], ok, .ok [1]]) with
      | .next (e, t) => e == .timeout && t.status == some 1 && t.result == some .ok
      | _ => false) = true := by decide
/-- A chip at work behind the block: `LatchEnv` with `WIP` and `WEL` set, and the moments of its completion. -/
def working (moments : List Bool) : State :=
  let chip : LatchEnv := { LatchEnv.start with wel := true, wip := true, supply := [0, 0, 0], moments := moments }
  { start [] with transport := { script := [], draws := 0, env := some chip } }

/-- R63, R105: the chip completes between the first poll and the second, and the loop ends ready on the second. -/
theorem test_wait_ready_completes :
    (match waitReady 3 3 0 (working [false, false, false, false, true]) with
      | .next (e, t) => e == .ready && t.status == some 0 && (newEvents (working []) t).countP Event.opens == 2
      | _ => false) = true := by decide
/-- R85 polls before it counts: with `MAX_POLLS = 0` a first poll that finds the chip ready ends ready. -/
theorem test_wait_ready_zero :
    (match waitReady 1 0 0 (start [ok, .ok [2]]) with
      | .next (e, t) => e == .ready && t.status == some 2
      | _ => false) = true := by decide
/-- D29, R28: a write past the end of `TXBUF` stores nothing, and while an operation runs it is refused like every
write. -/
theorem test_txbuf_past_end :
    endsIn (hostAccess (.write 9 256 (.bits 1)) (start [])) (fun t => t == start []) = true ∧
      refusedWith (hostAccess (.write 9 256 (.bits 1)) { start [] with busy := true }) .busy = true := by decide
/-- R14: element 0 of `RXBUF` is the first byte received, and past its last element there is no value. -/
theorem test_rxbuf_elements :
    endsIn (hostAccess (.read 10 0) { start [] with rxbuf := some [7, 8] }) (fun t =>
        t.hostData == some (.bits 7)) = true ∧
      faultsWith (hostAccess (.read 10 2) { start [] with rxbuf := some [7, 8] }) (.readNoValue .rxbuf) = true := by
  decide
/-- V9.2: reset in phase `CMD_DTX` of V1. -/
theorem test_reset_abandons :
    endsIn (step { at_ [ok] 0x100 1 with
        txbuf := [(0, 1)], opsel := some 8, busy := true, csN := .low, seq := .cmdDtx, err := some .ok,
        inputs := [.reset] }) (fun t =>
      t.csN == .high && !t.busy && t.seq == .idle && t.result == none && t.addr == none && t.trace == []) = true := by
  decide
/-- R180, U19: a reset in a window's first transmit, with nothing on record yet, draws both bits of the chip anew;
one of an idle block with the line low leaves the chip alone (R181). -/
theorem test_reset_first_transmit :
    endsIn (step { working [] with
        opsel := some 5, busy := true, csN := .low, seq := .wlTx, err := some .ok, inputs := [.reset] }) (fun t =>
      t.transport.draws == 2 && t.csN == .high && t.trace == []) = true ∧
      endsIn (step { working [] with csN := .low, inputs := [.reset] }) (fun t =>
        t.transport == (working []).transport && t.csN == .high) = true := by decide
/-- R93: an operation started with the line low begins its window without a falling edge; one started with it high
does not. -/
theorem test_no_falling_edge :
    ([Level.low, .high].map fun l =>
      (Transport.select l .low { script := [], draws := 0, env := some LatchEnv.start }).env.map LatchEnv.noEdge) =
      [some true, some false] := by decide
/-- Every operation runs as the first instruction after reset, whatever the transport answers. -/
theorem test_first_instruction :
    (List.range 9).all (fun k => endsIn (step (State.reset.withFetchWord 8 (k + 1))) fun _ => true) = true := by
  decide

/-! ### Witnesses of the obligations' hypotheses -/

theorem witness_opsel_codes : (0 : BitVec 4).toNat = 0 ∧ 10 ≤ (10 : BitVec 4).toNat ∧ 10 ≤ (15 : BitVec 4).toNat := by
  decide
theorem witness_header_unique : decodeHeader [0x03, 0x12, 0x34, 0x56] = .ok (.readBytes 0x123456) := by rfl
theorem witness_host_access :
    HostAccess.wellFormed (.writeTxbuf 255 0xFF) = true ∧ HostAccess.wellFormed (.start 15) = true ∧
      HostAccess.wellFormed (.writeAddr 0xFFFFFFFF) = true ∧ HostAccess.wellFormed (.read .busy) = true := by decide
theorem witness_codes_5 : 5 ≤ (5 : BitVec 3).toNat ∧ 5 ≤ (7 : BitVec 3).toNat := by decide

/-- The idle block with the write of an `OPSEL` value as its next input. -/
def opselNext (v : Nat) (g : Grain) : State :=
  { start [] with inputs := [.access (.write (HostReg.number .opsel) 0 (.bits v))], grain := g }

theorem witness_step_runs :
    ([Grain.atomic, .phased].all fun g =>
      (opselNext 9 g).inputs == [.access (.write (HostReg.number .opsel) 0 (.bits 9))] &&
        (opselNext 9 g).running == false && (opselNext 9 g).grain == g) = true ∧
      (9 < 16 ∧ decodeOpsel (BitVec.ofNat 4 9) = .ok .readData) ∧
      decodeTableWord 8 9 = some .readData ∧ State.reset.running = false ∧ State.reset.grain = .atomic := by
  refine ⟨by decide, ⟨by decide, rfl⟩, by decide, by decide, by decide⟩

/-- `WRITE_ENABLE` standing at `WL_TX` in the phased grain. -/
def midway : State :=
  { start [ok, ok, .ok [2]] with
    opsel := some 5, busy := true, csN := .low, seq := .wlTx, err := some .ok, grain := .phased }

theorem witness_step_without_input :
    (start []).inputs = [] ∧ (start []).running = false ∧ midway.inputs = [] ∧ midway.running = true := by decide
theorem witness_reserved :
    ([0, 10, 15].all fun v => (opselNext v .atomic).inputs ==
      [.access (.write (HostReg.number .opsel) 0 (.bits v))] && !(opselNext v .atomic).running) = true ∧
      (10 ≤ 10 ∧ 15 < 16) := by decide
theorem witness_busy :
    midway.running = true ∧ isHostWrite (.writeTxbuf 256 0) = true ∧ isHostWrite (.start 4) = true ∧
      (0 : BitVec 4).toNat ≤ 10 ∧ (10 : BitVec 4).toNat ≤ 10 ∧
      refusedWith (hostAccess (.write 10 0 (.bits 0)) midway) .busy = true := by decide
theorem witness_unassigned : 11 ≤ (11 : BitVec 4).toNat ∧ 11 ≤ (15 : BitVec 4).toNat := by decide
/-- Each clause at the first value of its range; a `TXBUF` element without a value (R32) and with one. -/
theorem witness_accesses_beyond_the_table :
    (start []).running = false ∧ 256 ≤ 256 ∧ 16 ≤ 16 ∧ 2 ^ 32 ≤ 4294967296 ∧
      endsIn (hostAccess (.write 3 0 (.bits 0)) { start [] with result := some .comm }) (fun t =>
        t.result == some .comm) = true ∧
      endsIn (hostAccess (.write 1 0 (.bits 4294967296)) (start [])) (fun t => t.addr == none) = true ∧
      faultsWith (hostAccess (.read 9 0) (start [])) (.readNoValue .txbuf) = true ∧
      endsIn (hostAccess (.read 9 0) { start [] with txbuf := [(0, 7)] }) (fun t => t.hostData == none) = true := by
  decide
/-- Idle with and without a value, and while an operation runs. -/
theorem witness_host_read :
    (start []).running = false ∧ midway.running = true ∧
      faultsWith (hostAccess (.read 3 0) (start [])) (.readNoValue .result) = true ∧
      endsIn (hostAccess (.read 3 0) { start [] with result := some .param }) (fun t =>
        t.hostData == some (.bits 4)) = true ∧
      endsIn (hostAccess (.read 5 0) midway) (fun t => t.hostData == some (.bits 1)) = true ∧
      endsIn (hostAccess (.read 3 0) midway) (fun t => t.hostData == none) = true := by decide
/-- No value, the last element, the first index past it, and a running operation. -/
theorem witness_rxbuf_read :
    (start []).running = false ∧ (start []).rxbuf = none ∧
      ({ start [] with rxbuf := some [1, 2] } : State).running = false ∧
      endsIn (hostAccess (.read 10 1) { start [] with rxbuf := some [1, 2] }) (fun t => t.hostData == some (.bits 2)) =
        true ∧
      faultsWith (hostAccess (.read 10 2) { start [] with rxbuf := some [1, 2] }) (.readNoValue .rxbuf) = true ∧
      midway.running = true ∧ endsIn (hostAccess (.read 10 0) midway) (fun t => t.hostData == none) = true := by
  decide
theorem witness_txbuf_write :
    (start []).running = false ∧ 0 < txbufSize ∧ 255 < txbufSize ∧
      Memory.wf txbufSize (start []).txbuf = true ∧ Memory.wf txbufSize (ramp 4) = true := by decide
theorem witness_scalar_writes : (start []).running = false := by decide
/-- Reset mid-operation with the line low, and of the idle block. -/
theorem witness_reset_input :
    ({ midway with inputs := [.reset] } : State).inputs = [.reset] ∧ midway.csN = .low ∧
      ({ start [] with inputs := [.reset] } : State).running = false := by decide
theorem witness_cs : (start []).Ready dev ∧ ({ start [] with csN := .low } : State).Ready dev := by decide

theorem witness_verify_id :
    (start [ok, .ok [0xC2, 0x14]]).Ready dev ∧ (start [ok, .ok [0xC2, 0x14]]).OracleSays [ok, .ok [0xC2, 0x14]] [] ∧
      (start [.fail]).OracleSays [.fail] [] ∧ (start [ok, .fail]).OracleSays [ok, .fail] [] := by decide
theorem witness_read_status :
    (start []).Ready dev ∧ (start [ok, .ok [1]]).OracleSays [ok, .ok [1]] [] ∧ (start [.fail]).OracleSays [.fail] [] ∧
      (start [ok, .fail]).OracleSays [ok, .fail] [] := by decide
/-- For both latch operations: a status byte with bit 1 set and one with it clear, and the three failures. -/
theorem witness_latch :
    (start [ok, ok, .ok [2]]).Ready dev ∧ (start [ok, ok, .ok [2]]).OracleSays [ok, ok, .ok [2]] [] ∧
      (start [ok, ok, .ok [0xFD]]).OracleSays [ok, ok, .ok [0xFD]] [] ∧ (start [.fail]).OracleSays [.fail] [] ∧
      (start [ok, .fail]).OracleSays [ok, .fail] [] ∧ (start [ok, ok, .fail]).OracleSays [ok, ok, .fail] [] := by decide
theorem witness_chip_erase :
    (start [ok, ok, .ok [2], ok]).Ready dev ∧ (start [ok, ok, .ok [2], ok]).OracleSays [ok, ok, .ok [2], ok] [] ∧
      (start [ok, ok, .ok [2], .fail]).OracleSays [ok, ok, .ok [2], .fail] [] ∧
      (start [ok, ok, .ok [1]]).OracleSays [ok, ok, .ok [1]] [] ∧
      (2 : Byte).getLsbD 1 = true ∧ (1 : Byte).getLsbD 1 = false := by decide
/-- `LEN = 257`, the greatest `LEN`, and `LEN = 256` with a low address byte that is not 0. -/
theorem witness_page_program_rejects :
    ((at_ [] 0 257).Ready dev ∧ (at_ [] 0 257).len = some 257 ∧ 256 < (257 : Word32).toNat) ∧
      ((at_ [] 0 0xFFFFFFFF).Ready dev ∧ 256 < (0xFFFFFFFF : Word32).toNat) ∧
      ((at_ [] 1 256).Ready dev ∧ (256 : Word32).toNat = 256 ∧ (at_ [] 1 256).addr = some 1 ∧
        (1 : Word32).toNat % 256 ≠ 0) := by decide

/-- A full buffer behind `ADDR` and `LEN`. -/
def page (script : List Answer) (a n : Word32) : State := { at_ script a n with txbuf := ramp 256 }

set_option maxRecDepth 20000 in
/-- V1.6 (a full aligned page) and V1.7 (255 bytes at an odd address); and `LEN = 0`. -/
theorem witness_page_program :
    ((page [ok, ok, .ok [2], ok, ok] 0x1200 256).Ready dev ∧ (rampBytes 256).length = (256 : Word32).toNat ∧
      (∀ k < 256, cellRead (page [] 0x1200 256).txbuf k = (rampBytes 256)[k]?) ∧
      ¬ 256 < (256 : Word32).toNat ∧ ¬ ((256 : Word32).toNat = 256 ∧ (0x1200 : Word32).toNat % 256 ≠ 0)) ∧
      ((rampBytes 255).length = (255 : Word32).toNat ∧
        (∀ k < 255, cellRead (page [] 0x1201 255).txbuf k = (rampBytes 255)[k]?) ∧
        ¬ 256 < (255 : Word32).toNat ∧ ¬ ((255 : Word32).toNat = 256 ∧ (0x1201 : Word32).toNat % 256 ≠ 0)) ∧
      ([] : List Byte).length = (0 : Word32).toNat ∧
      ∀ k < (0 : Word32).toNat, cellRead (at_ [] 0 0).txbuf k = ([] : List Byte)[k]? := by decide
/-- The payload in index order, and none when an element holds no value. -/
theorem witness_payload :
    cellSlice [(0, 0xAA), (1, 0xBB)] 0 2 = some [0xAA, 0xBB] ∧ cellSlice [(0, 0xAA), (2, 0xBB)] 0 2 = none := by decide
/-- The seven clauses' answers: the good path, payload, header, latch, and the three failures of the latch
sequence. -/
theorem witness_page_program_answers :
    (page [ok, ok, .ok [2], ok, ok] 0 256).OracleSays [ok, ok, .ok [2], ok, ok] [] ∧
      (page [ok, ok, .ok [2], ok, .fail] 0 256).OracleSays [ok, ok, .ok [2], ok, .fail] [] ∧
      (page [ok, ok, .ok [2], .fail] 0 256).OracleSays [ok, ok, .ok [2], .fail] [] ∧
      (page [ok, ok, .ok [1]] 0 256).OracleSays [ok, ok, .ok [1]] [] ∧
      (page [.fail] 0 256).OracleSays [.fail] [] ∧ (page [ok, .fail] 0 256).OracleSays [ok, .fail] [] ∧
      (page [ok, ok, .fail] 0 256).OracleSays [ok, ok, .fail] [] := by decide
theorem witness_read_data_plain :
    ({ at_ [ok, .ok [7]] 0 1 with readPreWren := false } : State).Ready dev ∧
      ({ at_ [ok, .ok [7]] 0 1 with readPreWren := false } : State).OracleSays [ok, .ok [7]] [] ∧
      ([7] : List Byte).length = (1 : Word32).toNat ∧ ([] : List Byte).length = (0 : Word32).toNat ∧
      (at_ [.fail] 0 1).OracleSays [.fail] [] ∧ (at_ [ok, .fail] 0 1).OracleSays [ok, .fail] [] := by decide
theorem witness_read_data_after_latch :
    (at_ [ok, ok, .ok [2], ok, .ok [7]] 0 1).Ready dev ∧ (at_ [] 0 1).readPreWren = true ∧
      (at_ [ok, ok, .ok [2], ok, .ok [7]] 0 1).OracleSays [ok, ok, .ok [2], ok, .ok [7]] [] ∧
      (at_ [ok, ok, .ok [0]] 0 1).OracleSays [ok, ok, .ok [0]] [] ∧
      (at_ [ok, ok, .ok [2], ok, .fail] 0 1).OracleSays [ok, ok, .ok [2], ok, .fail] [] ∧
      (at_ [ok, ok, .ok [2], .fail] 0 1).OracleSays [ok, ok, .ok [2], .fail] [] ∧
      (at_ [ok, ok, .fail] 0 1).OracleSays [ok, ok, .fail] [] := by decide

/-- A ready block whose operands hold values for every operation, with a transport that answers all. -/
theorem witness_operations_end :
    (at_ [ok, ok, .ok [2], ok, .ok [7]] 0 0).Ready dev ∧
      (Instr.all.all fun i => (at_ [ok, ok, .ok [2], ok, .ok [7]] 0 0).operandsHold i) = true ∧
      (at_ [ok, ok, .ok [2], ok, .ok [7]] 0 0).transportAnswers = true := by decide
theorem witness_stuck :
    (at_ [.never] 0 0).Ready dev ∧ (at_ [.never] 0 0).OracleSays [.never] [] ∧
      (Instr.all.all fun i => (at_ [.never] 0 0).operandsHold i) = true ∧
      ¬ 256 < (0 : Word32).toNat ∧ ¬ ((0 : Word32).toNat = 256 ∧ (0 : Word32).toNat % 256 ≠ 0) := by decide
theorem witness_missing :
    State.reset.running = false ∧ State.reset.bus = none ∧ (start []).operandsHold .readData = false ∧
      (at_ [] 0 1).operandsHold .pageProgram = false ∧ (start []).operandsHold .pageProgram = false := by decide

/-- Each operation answers a next state from one and the same state: the hypothesis of the frame and trace
statements; all but the two primitives with the result `OK`. -/
theorem witness_every_operation_completes :
    (Instr.all.all fun i => endsIn (exec i (at_ [ok, ok, .ok [2], ok, .ok [7]] 0 0)) fun _ => true) = true := by decide
theorem witness_result_kinds :
    writesResult .verifyId = true ∧ writesResult .csAssert = false ∧ ResultKind.param ∈ resultKinds .pageProgram true ∧
      ResultKind.regVerify ∈ resultKinds .readData true ∧ ResultKind.regVerify ∉ resultKinds .readData false := by
  decide
theorem witness_ok_paths :
    (endsIn (exec .verifyId (start [ok, .ok [0xC2, 0x14]])) fun t => t.result == some .ok) = true ∧
      (endsIn (exec .readStatus (start [ok, .ok [0]])) fun t => t.result == some .ok) = true ∧
      (endsIn (exec .writeEnable (start [ok, ok, .ok [2]])) fun t => t.result == some .ok) = true ∧
      (endsIn (exec .chipErase (start [ok, ok, .ok [2], ok])) fun t => t.result == some .ok) = true ∧
      (endsIn (exec .pageProgram (at_ [ok, ok, .ok [2], ok, ok] 0 0)) fun t => t.result == some .ok) = true ∧
      (endsIn (exec .readData (at_ [ok, ok, .ok [2], ok, .ok []] 0 0)) fun t => t.result == some .ok) = true := by decide
/-- Both cases of the address rule: advanced (with a wrap at 2^32) and left alone. -/
theorem witness_address_advance :
    endsIn (exec .pageProgram { at_ [ok, ok, .ok [2], ok, ok] 0xFFFFFFFF 1 with txbuf := [(0, 9)] }) (fun t =>
        t.result == some .ok && t.addr == some 0) = true ∧
      endsIn (exec .pageProgram { at_ [ok, ok, .ok [2], ok, .fail] 5 1 with txbuf := [(0, 9)] }) (fun t =>
        t.result == some .comm && t.addr == some 5) = true := by decide
/-- An erase frame, a program header, and a payload that begins with an erase opcode. -/
theorem witness_mutating_frames :
    Event.sends 0x60 (tx [0x60]) = true ∧ Event.sends 0x02 (tx [0x02, 0, 0, 0]) = true ∧
      Event.sends 0x60 (tx [0x60, 1]) = true ∧
      gives (exec .chipErase (start [ok, ok, .ok [2], ok])) .ok (we 2 ++ tx [] :: []) = false ∧
      gives (exec .chipErase (start [ok, ok, .ok [2], ok])) .ok ((we 2 ++ [cs0]) ++ tx [0x60] :: [cs1]) = true := by
  decide
/-- V2.6: two addresses that differ in the top byte only. -/
theorem witness_top_byte :
    addr24 0x12ABCDEF = addr24 0x00ABCDEF ∧
      endsIn (exec .readData (at_ [ok, ok, .ok [2], ok, .ok []] 0x12ABCDEF 0)) (fun _ => true) = true := by decide
theorem witness_phases :
    (start [ok, .ok [0xC2, 0x14]]).transportAnswers = true ∧
      gives (exec .verifyId (start [ok, .ok [0xC2, 0x14]])) .ok [cs0, tx [0x90, 0, 0, 0], rx [0xC2, 0x14], cs1] = true ∧
      endsIn (startPhases .verifyId (start [ok, .ok [0xC2, 0x14]])) (fun t => t.seq == .cmdSel) = true ∧
      refusedWith (startPhases .readData (start [])) (.operandNoValue .addr) = true := by decide
theorem witness_invariant :
    midway.inv = true ∧ midway.running = true ∧ midway.transportAnswers = true ∧
      endsIn (step midway) (fun t => t.seq == .wlDes) = true := by decide
/-- The three exits, and a bound that lies further on or is never met. -/
theorem witness_polling :
    (start []).grain = .atomic ∧
      ([(1, PollExit.ready, [ok, .ok [0]]), (1, .fail, [.fail]), (1, .timeout, [ok, .ok [1]]),
        (2, .again 1, [ok, .ok [1]]), (0, .again 1, [ok, .ok [1]])].all fun c =>
        match waitReady 1 c.1 0 (start c.2.2) with
        | .next (e, _) => e == c.2.1
        | _ => false) = true := by decide
/-- Completion on the last choice the first poll leaves room for, and on the last of two polls; an idle chip. -/
theorem witness_fair_polling :
    (working [false, false, true]).Ready dev ∧ (working []).csN = .high ∧ (working []).grain = .atomic ∧
      ([([false, false, true], 0), ([false, false, false, false, false, false, true], 1)].all fun c =>
        match (working c.1).transport.env with
        | some e => e.completesWithin (4 * c.2 + 3)
        | none => false) = true ∧ LatchEnv.start.completesWithin 3 = true ∧ 0 + 1 ≤ 1 := by decide
theorem witness_latch_env :
    ({ start [] with transport := { script := [], draws := 0, env := some LatchEnv.start } } : State).Ready dev ∧
      (start []).csN = .high ∧ LatchEnv.start.wip = false := by decide

end Sys2Proof.Tests
end

/-! ## What every operation leaves, once for all nine -/

namespace Sys2Proof.Machine

open Sys2Proof

/-- `t` is `s` after operation `i` came to its end with the events `tr`: idle, the scratch dead. The four registers an
operation may write, the line and the transport stand as `t` has them (R29). -/
def EndedIdle (i : Instr) (s t : State) (tr : List Event) : Prop :=
  t = { s with
    opsel := some (encode i), addr := t.addr, result := t.result, status := t.status, rxbuf := t.rxbuf,
    busy := false, csN := t.csN, seq := .idle, hdr := none, srTmp := none, idTmp := none, err := none,
    rxTmp := none, trace := s.trace ++ tr, transport := t.transport }

theorem EndedWith.endedIdle {i : Instr} {s t : State} {tr : List Event} {k : ResultKind}
    (h : EndedWith i s t tr k) : EndedIdle i s t tr := by
  unfold EndedIdle
  rw [h]

theorem EndedIdle.newEvents {i : Instr} {s t : State} {tr : List Event} (h : EndedIdle i s t tr) :
    newEvents s t = tr := by
  have htr : t.trace = s.trace ++ tr := by rw [h]
  simp [Machine.newEvents, htr]

/-- The registers an operation leaves alone because its row of R29 does not write them. -/
structure KeepsUnwritten (i : Instr) (s t : State) : Prop where
  addr : i ≠ .pageProgram → t.addr = s.addr
  status : i ≠ .readStatus → t.status = s.status
  rxbuf : i ≠ .readData → t.rxbuf = s.rxbuf
  result : writesResult i = false → t.result = s.result

theorem carries_of_mem_latchFailures {h : Handle} {cmd : Header} {tr : List Event}
    (htr : tr ∈ latchFailures h cmd) : tr.all (Event.carries h) = true := by
  simp only [latchFailures, List.mem_cons, List.not_mem_nil, or_false] at htr
  rcases htr with rfl | rfl | rfl <;> simp [Event.carries]

@[simp] theorem all_carries_latchEvents (h : Handle) (cmd : Header) (b : Byte) :
    (latchEvents h cmd b).all (Event.carries h) = true := by
  simp [latchEvents, Event.carries]

/-- All nine operations at once: started ready, one that answers a next state is back at idle, its events carry the
handle, and it has written nothing but its own outputs. -/
theorem exec_ends {i : Instr} {s t : State} (he : exec i s = .next t) :
    ∃ h tr, s.Ready h ∧ EndedIdle i s t tr ∧ tr.all (Event.carries h) = true ∧ KeepsUnwritten i s t := by
  cases i with
  | csAssert =>
    obtain ⟨h, hr, rfl⟩ := execCsAssert_spec he
    exact ⟨h, [.cs h.csLine .low], hr, rfl, by simp [Event.carries], ⟨by simp, by simp, by simp, by simp⟩⟩
  | csDeassert =>
    obtain ⟨h, hr, rfl⟩ := execCsDeassert_spec he
    exact ⟨h, [.cs h.csLine .high], hr, rfl, by simp [Event.carries], ⟨by simp, by simp, by simp, by simp⟩⟩
  | verifyId =>
    obtain ⟨h, hr, ha, hs, hx, hc⟩ := execVerifyId_cases he
    have hk : KeepsUnwritten .verifyId s t := ⟨fun _ => ha, fun _ => hs, fun _ => hx, nofun⟩
    rcases hc with hw | hw | ⟨b, -, hw⟩ <;>
      exact ⟨h, _, hr, hw.endedIdle, by simp [Event.carries], hk⟩
  | readStatus =>
    obtain ⟨h, hr, ha, hx, hc⟩ := execReadStatus_cases he
    have hk : KeepsUnwritten .readStatus s t := ⟨fun _ => ha, nofun, fun _ => hx, nofun⟩
    rcases hc with ⟨-, hw⟩ | ⟨-, hw⟩ | ⟨b, -, hw⟩ <;>
      exact ⟨h, _, hr, hw.endedIdle, by simp [Event.carries], hk⟩
  | writeEnable =>
    obtain ⟨h, hr, ha, hs, hx, hc⟩ := execWriteEnable_cases he
    have hk : KeepsUnwritten .writeEnable s t := ⟨fun _ => ha, fun _ => hs, fun _ => hx, nofun⟩
    rcases hc with ⟨tr, hm, hw⟩ | ⟨b, hw⟩
    · exact ⟨h, tr, hr, hw.endedIdle, carries_of_mem_latchFailures hm, hk⟩
    · exact ⟨h, _, hr, hw.endedIdle, by simp, hk⟩
  | writeDisable =>
    obtain ⟨h, hr, ha, hs, hx, hc⟩ := execWriteDisable_cases he
    have hk : KeepsUnwritten .writeDisable s t := ⟨fun _ => ha, fun _ => hs, fun _ => hx, nofun⟩
    rcases hc with ⟨tr, hm, hw⟩ | ⟨b, hw⟩
    · exact ⟨h, tr, hr, hw.endedIdle, carries_of_mem_latchFailures hm, hk⟩
    · exact ⟨h, _, hr, hw.endedIdle, by simp, hk⟩
  | chipErase =>
    obtain ⟨h, hr, ha, hs, hx, hc⟩ := execChipErase_cases he
    have hk : KeepsUnwritten .chipErase s t := ⟨fun _ => ha, fun _ => hs, fun _ => hx, nofun⟩
    rcases hc with ⟨tr, hm, hw⟩ | ⟨b, -, hw⟩ | ⟨b, ok, -, hw⟩
    · exact ⟨h, tr, hr, hw.endedIdle, carries_of_mem_latchFailures hm, hk⟩
    · exact ⟨h, _, hr, hw.endedIdle, by simp, hk⟩
    · exact ⟨h, _, hr, hw.endedIdle, by simp [Event.carries], hk⟩
  | pageProgram =>
    obtain ⟨h, a, n, hr, -, -, hs, hx, hc⟩ := execPageProgram_cases he
    have hk : KeepsUnwritten .pageProgram s t := ⟨nofun, fun _ => hs, fun _ => hx, nofun⟩
    rcases hc with ⟨-, rfl⟩ | ⟨v, -, -, -, ⟨tr, hm, -, hw⟩ | ⟨b, -, -, hw⟩ | ⟨b, -, -, hw⟩ | ⟨b, ok, -, -, hw⟩⟩
    · exact ⟨h, [], hr, by simp [EndedIdle, State.raise, State.complete, State.toIdle, State.begin], rfl, hk⟩
    · exact ⟨h, tr, hr, hw.endedIdle, carries_of_mem_latchFailures hm, hk⟩
    · exact ⟨h, _, hr, hw.endedIdle, by simp, hk⟩
    · exact ⟨h, _, hr, hw.endedIdle, by simp [Event.carries], hk⟩
    · exact ⟨h, _, hr, hw.endedIdle, by simp [Event.carries], hk⟩
  | readData =>
    obtain ⟨h, a, n, hr, -, -, ha, hs, hc⟩ := execReadData_cases he
    have hk : KeepsUnwritten .readData s t := ⟨fun _ => ha, fun _ => hs, nofun, nofun⟩
    rcases hc with ⟨-, -, tr, hm, hw⟩ | ⟨-, -, b, -, hw⟩ | ⟨pre, hpre, hc⟩
    · exact ⟨h, tr, hr, hw.endedIdle, carries_of_mem_latchFailures hm, hk⟩
    · exact ⟨h, _, hr, hw.endedIdle, by simp, hk⟩
    · have hp : pre.all (Event.carries h) = true := by
        rcases hpre with ⟨-, b, -, rfl⟩ | ⟨-, rfl⟩
        · simp
        · rfl
      rcases hc with ⟨-, hw⟩ | ⟨-, hw⟩ | ⟨b, -, -, hw⟩ <;>
        exact ⟨h, _, hr, hw.endedIdle, by rw [List.all_append, hp]; simp [Event.carries], hk⟩

/-- Settles O37, from what all nine operations have in common. -/
theorem registerFrame : Obligations.RegisterFrame := by
  unfold Obligations.RegisterFrame
  intro i s t he
  obtain ⟨h, tr, -, hend, -, hk⟩ := exec_ends he
  refine ⟨?_, ?_, ?_, ?_, ?_, ?_, ?_, ?_, ?_, ?_, hk.addr, hk.status, hk.rxbuf, hk.result, ?_, ?_, ?_, tr, ?_⟩ <;>
    rw [hend]
  exact fun _ => rfl

/-- The handle registers hold one handle at most. -/
theorem State.HasHandle.unique {s : State} {h h' : Handle} (hs : s.HasHandle h) (hs' : s.HasHandle h') :
    h = h' := by
  obtain ⟨b, l, d⟩ := h
  obtain ⟨b', l', d'⟩ := h'
  obtain ⟨hb, hl, hd⟩ := hs
  simp_all [State.HasHandle]

/-- Settles O46: the events of `exec_ends` carry the handle the operation found. -/
theorem handleValuesPassedUnchanged : Obligations.HandleValuesPassedUnchanged := by
  unfold Obligations.HandleValuesPassedUnchanged
  intro i s t h hs he
  obtain ⟨h', tr, hr, hend, hcarries, -⟩ := exec_ends he
  obtain rfl := hs.unique hr.2
  refine ⟨?_, ?_⟩
  · rw [hend]
    exact hs
  · rw [hend.newEvents]
    exact hcarries

/-- Settles O41: the three ways `READ_STATUS` can end. -/
theorem statusHoldsAValueOnlyOnOk : Obligations.StatusHoldsAValueOnlyOnOk := by
  unfold Obligations.StatusHoldsAValueOnlyOnOk
  intro s t he
  obtain ⟨h, hr, -, -, ⟨hs, hw⟩ | ⟨hs, hw⟩ | ⟨b, hs, hw⟩⟩ := execReadStatus_cases he
  · simp [hw.result, hs]
  · simp [hw.result, hs]
  · exact ⟨fun _ => ⟨h, b, hr.2, hs, hw.newEvents⟩, fun hne => absurd hw.result hne⟩

end Sys2Proof.Machine

/-! ## The host port -/

namespace Sys2Proof.Machine

open Sys2Proof

/-! ### Register numbers and raw accesses (R27) -/

@[simp] theorem decodeReg_number (r : HostReg) : decodeReg r.number = some r := by
  cases r <;> rfl

theorem decodeReg_eq_none_iff : ∀ n : BitVec 4, decodeReg n = none ↔ 11 ≤ n.toNat := by
  decide

/-- A register number is assigned, or from 11 on. -/
theorem number_cases (n : BitVec 4) : (∃ r : HostReg, n = r.number) ∨ decodeReg n = none := by
  cases hd : decodeReg n with
  | none => exact .inr rfl
  | some r =>
    have hn := List.find?_some hd
    exact .inl ⟨r, (beq_iff_eq.1 hn).symm⟩

/-- A value that fits its register is taken as it is. -/
theorem map_boundedBits_toNat {w : Nat} (r : HostReg) (v : BitVec w) (f : Nat → HostAccess) :
    (boundedBits r (2 ^ w) (.bits v.toNat)).map f = .ok (f v.toNat) := by
  simp only [boundedBits, v.isLt, if_true]
  rfl

/-- Every well-formed access is read back from its encoding. -/
theorem decodeAccess_encodeAccess {a : HostAccess} (ha : a.wellFormed = true) :
    decodeAccess (encodeAccess a) = .ok a := by
  cases a with
  | start c => exact (map_boundedBits_toNat .opsel c _).trans (by simp)
  | writeAddr v => exact (map_boundedBits_toNat .addr v _).trans (by simp)
  | writeLen v => exact (map_boundedBits_toNat .len v _).trans (by simp)
  | writeTxbuf i b =>
    have hi : i < txbufSize := of_decide_eq_true ha
    have hw : decodeWrite .txbuf i (.bits b.toNat) = .ok (.writeTxbuf i b) := by
      simp only [decodeWrite, Nat.not_le.2 hi, if_false, map_boundedBits_toNat, BitVec.ofNat_toNat,
        BitVec.setWidth_eq]
    exact hw
  | writeTimeout t => rfl
  | writeCsLine l => rfl
  | writeBus b => rfl
  | read r =>
    revert ha
    cases r <;> simp [HostAccess.wellFormed, encodeAccess, decodeAccess, decodeRead]
  | readTxbuf i => rfl
  | readRxbuf i => rfl

/-- Settles O5: the numbers by evaluation, the round trip access by access. -/
theorem hostAccessDecodesFromItsEncoding : Obligations.HostAccessDecodesFromItsEncoding := by
  unfold Obligations.HostAccessDecodesFromItsEncoding
  exact ⟨by decide, fun _ ha => decodeAccess_encodeAccess ha⟩

/-- What a bounded value decodes to: a number below the bound, or no value of the register. -/
theorem boundedBits_cases (r : HostReg) (bound : Nat) (v : HostValue) :
    (∃ n < bound, boundedBits r bound v = .ok n) ∨ boundedBits r bound v = .error (.badValue r) := by
  cases v with
  | bits n =>
    by_cases hn : n < bound
    · exact .inl ⟨n, hn, by simp [boundedBits, hn]⟩
    · exact .inr (by simp [boundedBits, hn])
  | line l => exact .inr rfl

/-- What the write of an assigned register `r` may decode to: a writing access, which starts an operation only for
`OPSEL`, or an error that leaves the register number assigned. -/
def DecodesToWrite (r : HostReg) (d : Except AccessError HostAccess) : Prop :=
  (∃ a, d = .ok a ∧ isHostWrite a = true ∧ ∀ c, a = .start c → r = .opsel) ∨
    ∃ e, d = .error e ∧ ∀ n, e ≠ .unassigned n

theorem decodesToWrite_bounded {r : HostReg} (bound : Nat) (v : HostValue) {f : Nat → HostAccess}
    (hf : ∀ n, isHostWrite (f n) = true) (hs : ∀ n c, f n = .start c → r = .opsel) :
    DecodesToWrite r ((boundedBits r bound v).map f) := by
  rcases boundedBits_cases r bound v with ⟨n, -, hn⟩ | he
  · exact .inl ⟨f n, by rw [hn]; rfl, hf n, hs n⟩
  · exact .inr ⟨.badValue r, by rw [he]; rfl, by simp⟩

theorem decodesToWrite_decodeWrite (r : HostReg) (index : Nat) (v : HostValue) :
    DecodesToWrite r (decodeWrite r index v) := by
  cases r with
  | opsel => exact decodesToWrite_bounded _ _ (fun _ => rfl) (fun _ _ _ => rfl)
  | addr => exact decodesToWrite_bounded _ _ (fun _ => rfl) (by simp)
  | len => exact decodesToWrite_bounded _ _ (fun _ => rfl) (by simp)
  | result => exact .inr ⟨_, rfl, by simp⟩
  | status => exact .inr ⟨_, rfl, by simp⟩
  | busy => exact .inr ⟨_, rfl, by simp⟩
  | rxbuf => exact .inr ⟨_, rfl, by simp⟩
  | timeout =>
    cases v with
    | bits n => exact .inl ⟨_, rfl, rfl, by simp⟩
    | line l => exact .inr ⟨_, rfl, by simp⟩
  | csLine =>
    cases v with
    | bits n => exact .inr ⟨_, rfl, by simp⟩
    | line l => exact .inl ⟨_, rfl, rfl, by simp⟩
  | bus =>
    cases v with
    | bits n => exact .inl ⟨_, rfl, rfl, by simp⟩
    | line l => exact .inr ⟨_, rfl, by simp⟩
  | txbuf =>
    by_cases hi : txbufSize ≤ index
    · exact .inr ⟨.noSuchElement .txbuf index, by simp only [decodeWrite, hi, if_true], by simp⟩
    · simp only [decodeWrite, hi, if_false]
      exact decodesToWrite_bounded _ _ (fun _ => rfl) (by simp)

theorem hostAccess_write_ok {r : HostReg} {index : Nat} {v : HostValue} {a : HostAccess}
    (hd : decodeWrite r index v = .ok a) (s : State) :
    hostAccess (.write r.number index v) s = hostPerform a s := by
  simp [hostAccess, decodeAccess, hd]

/-- A write of an assigned register that names nothing the port holds stores nothing. -/
theorem hostAccess_write_error {r : HostReg} {index : Nat} {v : HostValue} {e : AccessError}
    (hd : decodeWrite r index v = .error e) (s : State) :
    hostAccess (.write r.number index v) s = discardWrite s := by
  rcases decodesToWrite_decodeWrite r index v with ⟨a, ha, -⟩ | ⟨e', he', hne⟩
  · rw [hd] at ha
    cases ha
  · obtain rfl : e = e' := by simpa [hd] using he'
    cases e with
    | unassigned n => exact absurd rfl (hne n)
    | readOnly r' => simp [hostAccess, decodeAccess, hd]
    | noSuchElement r' i => simp [hostAccess, decodeAccess, hd]
    | badValue r' => simp [hostAccess, decodeAccess, hd]

/-- A raw write of an assigned register is a writing access, or stores nothing. -/
theorem hostAccess_write_cases (r : HostReg) (index : Nat) (v : HostValue) (s : State) :
    (∃ a, isHostWrite a = true ∧ (∀ c, a = .start c → r = .opsel) ∧
        hostAccess (.write r.number index v) s = hostPerform a s) ∨
      hostAccess (.write r.number index v) s = discardWrite s := by
  rcases decodesToWrite_decodeWrite r index v with ⟨a, hd, ha, hs⟩ | ⟨e, hd, -⟩
  · exact .inl ⟨a, ha, hs, hostAccess_write_ok hd s⟩
  · exact .inr (hostAccess_write_error hd s)

@[simp] theorem hostAccess_read (r : HostReg) (index : Nat) (s : State) :
    hostAccess (.read r.number index) s = hostPerform (decodeRead r index) s := by
  simp [hostAccess, decodeAccess]

theorem hostAccess_write_unassigned {n : BitVec 4} (hn : decodeReg n = none) (index : Nat) (v : HostValue)
    (s : State) : hostAccess (.write n index v) s = .refused (.unassignedRegister n) := by
  simp [hostAccess, decodeAccess, hn]

theorem hostAccess_read_unassigned {n : BitVec 4} (hn : decodeReg n = none) (index : Nat) (s : State) :
    hostAccess (.read n index) s = .refused (.unassignedRegister n) := by
  simp [hostAccess, decodeAccess, hn]

/-- Settles O13: a number from 11 on decodes to no register. -/
theorem unassignedRegisterRefused : Obligations.UnassignedRegisterRefused := by
  unfold Obligations.UnassignedRegisterRefused
  intro s n index v hn
  have hd := (decodeReg_eq_none_iff n).2 hn
  exact ⟨hostAccess_write_unassigned hd index v s, hostAccess_read_unassigned hd index s⟩

/-! ### Writes (R27, R28) -/

theorem whileIdle_of_idle {s : State} (hr : s.running = false) (t : State) : whileIdle s t = .next t := by
  simp [whileIdle, hr]

theorem whileIdle_of_running {s : State} (hr : s.running = true) (t : State) : whileIdle s t = .refused .busy := by
  simp [whileIdle, hr]

/-- What a host write of a register other than `OPSEL` may change; it keeps a canonical buffer canonical. -/
def HostWrites (s t : State) : Prop :=
  t = { s with
    addr := t.addr, len := t.len, txbuf := t.txbuf, timeout := t.timeout, csLine := t.csLine, bus := t.bus } ∧
    (Memory.wf txbufSize s.txbuf = true → Memory.wf txbufSize t.txbuf = true)

/-- All that a writing access can do: start an operation, or write one register of the idle block. -/
theorem hostPerform_write_cases {a : HostAccess} (ha : isHostWrite a = true) (s : State) :
    (∃ c, a = .start c) ∨ ∃ t, hostPerform a s = whileIdle s t ∧ HostWrites s t := by
  cases a with
  | start c => exact .inl ⟨c, rfl⟩
  | writeAddr v => exact .inr ⟨_, rfl, rfl, id⟩
  | writeLen v => exact .inr ⟨_, rfl, rfl, id⟩
  | writeTxbuf i b =>
    by_cases hi : i < txbufSize
    · exact .inr ⟨_, by simp only [hostPerform, hi, if_true]; rfl, rfl,
        fun hw => Memory.wf_cellWrite txbufSize s.txbuf i b hw hi⟩
    · exact .inr ⟨s, by simp only [hostPerform, hi, if_false]; rfl, rfl, id⟩
  | writeTimeout t => exact .inr ⟨_, rfl, rfl, id⟩
  | writeCsLine l => exact .inr ⟨_, rfl, rfl, id⟩
  | writeBus b => exact .inr ⟨_, rfl, rfl, id⟩
  | read r => cases ha
  | readTxbuf i => cases ha
  | readRxbuf i => cases ha

/-- Settles O19: each is a write of the idle block. -/
theorem scalarWritesSetOneRegister : Obligations.ScalarWritesSetOneRegister := by
  unfold Obligations.ScalarWritesSetOneRegister
  intro s hr
  exact ⟨fun _ => whileIdle_of_idle hr _, fun _ => whileIdle_of_idle hr _, fun _ => whileIdle_of_idle hr _,
    fun _ => whileIdle_of_idle hr _, fun _ => whileIdle_of_idle hr _⟩

/-- Settles O18, by the read-after-write law of the cells. -/
theorem txbufWriteTouchesOneElement : Obligations.TxbufWriteTouchesOneElement := by
  unfold Obligations.TxbufWriteTouchesOneElement
  intro s i b hr hi hw
  refine ⟨{ s with txbuf := cellWrite s.txbuf i b }, ?_, rfl, Memory.wf_cellWrite _ _ i b hw hi, fun j => ?_⟩
  · simp only [hostPerform, hi, if_true]
    exact whileIdle_of_idle hr _
  · rw [cellRead_cellWrite s.txbuf i j b ((Memory.wf_iff _ _).1 hw).1]
    simp only [eq_comm]

/-- The elements from `start` on are read in index order, and exist exactly where each of them holds a value. -/
theorem cellSlice_eq_some_iff (m : List Host.Cell) (start n : Nat) (v : List Byte) :
    cellSlice m start n = some v ↔ v.length = n ∧ ∀ k < n, cellRead m (start + k) = v[k]? := by
  induction n generalizing start v with
  | zero => simp [cellSlice, List.length_eq_zero_iff, eq_comm (a := [])]
  | succ n ih =>
    cases v with
    | nil =>
      refine ⟨fun h => absurd (cellSlice_length h) (by simp), fun h => absurd h.1 (by simp)⟩
    | cons b bs =>
      have hstep : cellSlice m start (n + 1) = some (b :: bs) ↔
          cellRead m start = some b ∧ cellSlice m (start + 1) n = some bs := by
        cases hr : cellRead m start <;> cases hs : cellSlice m (start + 1) n <;> simp [cellSlice, hr, hs]
      rw [hstep, ih]
      simp only [List.length_cons, Nat.add_right_cancel_iff]
      constructor
      · rintro ⟨hb, hl, hk⟩
        refine ⟨hl, fun k hlt => ?_⟩
        cases k with
        | zero => simpa using hb
        | succ k => simpa [Nat.add_assoc, Nat.add_comm 1] using hk k (by omega)
      · rintro ⟨hl, hk⟩
        refine ⟨by simpa using hk 0 (by omega), hl, fun k hlt => ?_⟩
        simpa [Nat.add_assoc, Nat.add_comm 1] using hk (k + 1) (by omega)

/-- Settles O30, the slice from element 0. -/
theorem payloadIsTxbufInIndexOrder : Obligations.PayloadIsTxbufInIndexOrder := by
  unfold Obligations.PayloadIsTxbufInIndexOrder
  intro m n v
  simpa using cellSlice_eq_some_iff m 0 n v

theorem boundedBits_error {r : HostReg} {bound n : Nat} (h : bound ≤ n) :
    boundedBits r bound (.bits n) = .error (.badValue r) := by
  simp [boundedBits, Nat.not_lt.2 h]

/-- In the idle block a write that decodes to nothing the port holds stores nothing (log entry 12). -/
theorem hostAccess_write_discarded {r : HostReg} {index : Nat} {v : HostValue} {e : AccessError} {s : State}
    (hr : s.running = false) (hd : decodeWrite r index v = .error e) :
    hostAccess (.write r.number index v) s = .next s :=
  (hostAccess_write_error hd s).trans (whileIdle_of_idle hr s)

/-- A value too wide for a byte is no value of a `TXBUF` element, whatever the element. -/
theorem decodeWrite_txbuf_wide {index n : Nat} (hn : 256 ≤ n) :
    ∃ e, decodeWrite .txbuf index (.bits n) = .error e := by
  by_cases hi : txbufSize ≤ index
  · exact ⟨_, if_pos hi⟩
  · exact ⟨_, (if_neg hi).trans (congrArg (Except.map _) (boundedBits_error hn))⟩

/-- A line is no value of any register but `CSLINE`. -/
theorem decodeWrite_line {r : HostReg} (hr : r ≠ .csLine) (index : Nat) (l : CsLine) :
    ∃ e, decodeWrite r index (.line l) = .error e := by
  cases r with
  | csLine => exact absurd rfl hr
  | txbuf =>
    by_cases hi : txbufSize ≤ index
    · exact ⟨_, if_pos hi⟩
    · exact ⟨_, if_neg hi⟩
  | _ => exact ⟨_, rfl⟩

/-- Settles O14: each of these writes decodes to an error, and a read of `TXBUF` looks at the element alone. -/
theorem accessesBeyondTheTable : Obligations.AccessesBeyondTheTable := by
  unfold Obligations.AccessesBeyondTheTable
  refine ⟨fun s index v hr => ⟨?_, ?_, ?_, ?_, fun hi => ?_, fun n l => ⟨fun hn => ?_, fun hn => ⟨?_, ?_⟩, fun hn => ?_,
    ?_, ?_⟩⟩, fun s index => ?_⟩
  · exact hostAccess_write_discarded (r := .result) hr rfl
  · exact hostAccess_write_discarded (r := .status) hr rfl
  · exact hostAccess_write_discarded (r := .busy) hr rfl
  · exact hostAccess_write_discarded (r := .rxbuf) hr rfl
  · exact hostAccess_write_discarded (r := .txbuf) hr (if_pos hi)
  · exact hostAccess_write_discarded (r := .opsel) hr (congrArg (Except.map _) (boundedBits_error hn))
  · exact hostAccess_write_discarded (r := .addr) hr (congrArg (Except.map _) (boundedBits_error hn))
  · exact hostAccess_write_discarded (r := .len) hr (congrArg (Except.map _) (boundedBits_error hn))
  · obtain ⟨e, hd⟩ := decodeWrite_txbuf_wide (index := index) hn
    exact hostAccess_write_discarded (r := .txbuf) hr hd
  · exact hostAccess_write_discarded (r := .csLine) hr rfl
  · have hline : ∀ r : HostReg, r ≠ .csLine → hostAccess (.write r.number index (.line l)) s = .next s :=
      fun r hne => (decodeWrite_line hne index l).elim fun _ hd => hostAccess_write_discarded hr hd
    simp only [List.mem_cons, List.not_mem_nil, or_false, forall_eq_or_imp, forall_eq]
    exact ⟨hline .opsel (by simp), hline .addr (by simp), hline .len (by simp), hline .timeout (by simp),
      hline .bus (by simp), hline .txbuf (by simp)⟩
  · refine (hostAccess_read .txbuf index s).trans ?_
    simp only [decodeRead, hostPerform, hostReadTxbuf]
    cases cellRead s.txbuf index <;> rfl

/-! ### Reads (R27, R28, R32) -/

/-- A scalar register that is not hidden by a running operation delivers what it holds. -/
theorem hostRead_delivers {r : HostReg} {s : State} (h : hiddenWhileBusy r = false ∨ s.running = false) :
    hostRead r s = s.delivers r (regValue r s) := by
  have hc : (hiddenWhileBusy r && s.running) = false := by
    rcases h with h | h <;> simp [h]
  simp only [hostRead, hc, Bool.false_eq_true, if_false]
  cases regValue r s <;> rfl

/-- While an operation runs a hidden register returns no value (R28; log entry 11). -/
theorem hostRead_hidden {r : HostReg} {s : State} (h : hiddenWhileBusy r = true) (hr : s.running = true) :
    hostRead r s = returnNothing s := by
  simp [hostRead, h, hr]

theorem regValue_busy (s : State) : regValue .busy s = some (.bits (if s.busy then 1 else 0)) := by
  cases hb : s.busy <;> simp [regValue, hb]

/-- Settles O16, register by register. -/
theorem hostReadDeliversOrFaults : Obligations.HostReadDeliversOrFaults := by
  unfold Obligations.HostReadDeliversOrFaults
  intro s index
  refine ⟨?_, ?_, ?_, fun hr => ⟨?_, ?_⟩, ?_, ?_, ?_, ?_, fun hr => ⟨?_, ?_⟩⟩
  · exact (hostAccess_read .opsel index s).trans (hostRead_delivers (.inl rfl))
  · exact (hostAccess_read .addr index s).trans (hostRead_delivers (.inl rfl))
  · exact (hostAccess_read .len index s).trans (hostRead_delivers (.inl rfl))
  · refine (hostAccess_read .result index s).trans ((hostRead_delivers (.inr hr)).trans ?_)
    rcases hk : s.result with _ | k
    · simp [regValue, hk]
    · cases k <;> simp [regValue, hk, ResultKind.code]
  · exact (hostAccess_read .status index s).trans (hostRead_delivers (.inr hr))
  · exact (hostAccess_read .busy index s).trans
      ((hostRead_delivers (.inl rfl)).trans (congrArg _ (regValue_busy s)))
  · exact (hostAccess_read .timeout index s).trans (hostRead_delivers (.inl rfl))
  · exact (hostAccess_read .csLine index s).trans (hostRead_delivers (.inl rfl))
  · exact (hostAccess_read .bus index s).trans (hostRead_delivers (.inl rfl))
  · exact (hostAccess_read .result index s).trans (hostRead_hidden rfl hr)
  · exact (hostAccess_read .status index s).trans (hostRead_hidden rfl hr)

/-- Settles O17, by the cases of `RXBUF`. -/
theorem rxbufReadDeliversElement : Obligations.RxbufReadDeliversElement := by
  unfold Obligations.RxbufReadDeliversElement
  intro s i
  refine ⟨fun hr => (hostAccess_read .rxbuf i s).trans ?_, fun hr => (hostAccess_read .rxbuf i s).trans ?_⟩ <;>
    simp only [decodeRead, hostPerform, hostReadRxbuf, hr, if_true, Bool.false_eq_true, if_false]
  · cases hx : s.rxbuf with
    | none => rfl
    | some bs =>
      by_cases hi : i < bs.length
      · simp [hi]
      · simp [hi]
  · rfl

/-- What a host read may answer: the state with other data returned, or the fault of a register that holds no
value (R32). -/
def Reads (s : State) (o : Outcome) : Prop :=
  (∃ v, o = .next { s with hostData := v }) ∨ ∃ r, o = .fault (.readNoValue r)

theorem reads_returnNothing (s : State) : Reads s (returnNothing s) := .inl ⟨none, rfl⟩

theorem reads_held {β : Type} {s : State} {r : HostReg} {x : Option β} {k : β → Outcome} (hk : ∀ b, Reads s (k b)) :
    Reads s (held r x k) := by
  cases x with
  | none => exact .inr ⟨r, rfl⟩
  | some b => exact hk b

theorem reads_hostPerform {a : HostAccess} (ha : isHostWrite a = false) (s : State) : Reads s (hostPerform a s) := by
  cases a with
  | read r =>
    simp only [hostPerform, hostRead]
    split
    · exact reads_returnNothing s
    · exact reads_held fun v => .inl ⟨some v, rfl⟩
  | readTxbuf i => exact reads_held fun _ => reads_returnNothing s
  | readRxbuf i =>
    simp only [hostPerform, hostReadRxbuf]
    split
    · exact reads_returnNothing s
    · exact reads_held fun _ => reads_held fun b => .inl ⟨some (.bits b.toNat), rfl⟩
  | _ => cases ha

@[simp] theorem isHostWrite_decodeRead (r : HostReg) (index : Nat) : isHostWrite (decodeRead r index) = false := by
  cases r <;> rfl

/-! ### Starting an operation (R15, R28, R32, R83) -/

/-- Every operation and the start of its phases look first whether the block is idle and has its handle (R141, R182). -/
theorem exec_eq_withIdleHandle (i : Instr) (s : State) : ∃ k, exec i s = withIdleHandle s k := by
  cases i <;> exact ⟨_, rfl⟩

theorem withIdleHandle_of_running {s : State} (hr : s.running = true) (k : Handle → Outcome) :
    withIdleHandle s k = .refused .busy := by
  simp [withIdleHandle, hr]

theorem exec_of_running {s : State} (hr : s.running = true) (i : Instr) : exec i s = .refused .busy := by
  obtain ⟨k, hk⟩ := exec_eq_withIdleHandle i s
  exact hk.trans (withIdleHandle_of_running hr k)

theorem startPhases_of_running {s : State} (hr : s.running = true) (i : Instr) :
    startPhases i s = .refused .busy :=
  withIdleHandle_of_running hr _

theorem hostPerform_write_of_running {a : HostAccess} {s : State} (ha : isHostWrite a = true)
    (hr : s.running = true) : hostPerform a s = .refused .busy := by
  rcases hostPerform_write_cases ha s with ⟨c, rfl⟩ | ⟨t, ht, -⟩
  · simp [hostPerform, startOperation, hr]
  · exact ht.trans (whileIdle_of_running hr t)

/-- Settles O12: every path of a write looks first whether the block is idle. -/
theorem hostWritesRefusedWhileBusy : Obligations.HostWritesRefusedWhileBusy := by
  unfold Obligations.HostWritesRefusedWhileBusy
  intro s hr
  refine ⟨fun i => ⟨exec_of_running hr i, startPhases_of_running hr i⟩,
    fun a ha => hostPerform_write_of_running ha hr, fun n index v hn => ?_⟩
  rcases number_cases n with ⟨r, rfl⟩ | hd
  · rcases hostAccess_write_cases r index v s with ⟨a, ha, -, he⟩ | he
    · exact he.trans (hostPerform_write_of_running ha hr)
    · exact he.trans (whileIdle_of_running hr s)
  · have := (decodeReg_eq_none_iff n).1 hd
    omega

/-- What the start of an operation may answer in the idle block: a next state, the refusal of an operand without a
value, or, where a request is never answered, the stuck fault (R173). -/
def Starts (s : State) (o : Outcome) : Prop :=
  (∃ t, o = .next t) ∨ (∃ r, o = .refused (.operandNoValue r)) ∨
    (s.transportAnswers = false ∧ o = .fault .transportSilent)

theorem starts_withOperand {α : Type} {s : State} {r : HostReg} {x : Option α} {k : α → Outcome}
    (hk : ∀ v, Starts s (k v)) : Starts s (withOperand r x k) := by
  cases x with
  | none => exact .inr (.inl ⟨r, rfl⟩)
  | some v => exact hk v

theorem starts_withIdleHandle {s : State} {k : Handle → Outcome} (hr : s.running = false)
    (hk : ∀ h, Starts s (k h)) : Starts s (withIdleHandle s k) := by
  simp only [withIdleHandle, hr, Bool.false_eq_true, if_false]
  exact starts_withOperand fun _ => starts_withOperand fun _ => starts_withOperand fun _ => hk _

theorem starts_withProgramParams {s : State} {bad : Outcome} {good : Word32 → Word32 → Outcome} (hb : Starts s bad)
    (hg : ∀ a n, Starts s (good a n)) : Starts s (withProgramParams s bad good) := by
  refine starts_withOperand fun a => starts_withOperand fun n => ?_
  beta_reduce
  split
  · exact hb
  · split
    · exact hb
    · exact hg a n

theorem starts_next (s t : State) : Starts s (.next t) := .inl ⟨t, rfl⟩

theorem starts_settle (s t : State) : Starts s (settle s t) := by
  cases ha : s.transportAnswers with
  | true => exact settle_of_answers ha t ▸ starts_next s t
  | false => exact (settle_cases s t).imp (fun h => ⟨t, h⟩) fun h => .inr ⟨ha, h⟩

theorem starts_exec {s : State} (hr : s.running = false) (i : Instr) : Starts s (exec i s) := by
  cases i with
  | csAssert => exact starts_withIdleHandle hr fun _ => starts_next s _
  | csDeassert => exact starts_withIdleHandle hr fun _ => starts_next s _
  | pageProgram =>
    exact starts_withIdleHandle hr fun _ => starts_withProgramParams (starts_next s _) fun _ _ =>
      starts_withOperand fun _ => starts_settle s _
  | readData =>
    exact starts_withIdleHandle hr fun _ => starts_withOperand fun _ => starts_withOperand fun _ => starts_settle s _
  | _ => exact starts_withIdleHandle hr fun _ => starts_settle s _

theorem starts_startPhases {s : State} (hr : s.running = false) (i : Instr) : Starts s (startPhases i s) := by
  refine starts_withIdleHandle hr fun _ => ?_
  cases i with
  | pageProgram =>
    exact starts_withProgramParams (starts_next s _) fun _ _ => starts_withOperand fun _ => starts_next s _
  | readData => exact starts_withOperand fun _ => starts_withOperand fun _ => starts_next s _
  | _ => exact starts_next s _

/-- The reserved codes are 0 and 10 to 15 (R83). -/
theorem decodeOpsel_isOk_or_reserved :
    ∀ c : BitVec 4, (decodeOpsel c).isOk = true ∨ c.toNat = 0 ∨ 10 ≤ c.toNat := by
  decide

/-- The write of a code in the idle block: the operation it names runs as the grain says (R152), or the code is
reserved. -/
theorem startOperation_cases {s : State} (hr : s.running = false) (c : BitVec 4) :
    (∃ i, startOperation c s = exec i s ∨ startOperation c s = startPhases i s) ∨
      ((c.toNat = 0 ∨ 10 ≤ c.toNat) ∧ startOperation c s = .refused (.reservedOpsel c)) := by
  simp only [startOperation, hr, Bool.false_eq_true, if_false]
  cases hd : decodeOpsel c with
  | ok i => cases s.grain <;> exact .inl ⟨i, by simp⟩
  | error e =>
    refine .inr ⟨(decodeOpsel_isOk_or_reserved c).resolve_left ?_, rfl⟩
    simp [hd, Except.isOk, Except.toBool]

/-- All that the write of a code in the idle block may answer. -/
theorem starts_startOperation {s : State} (hr : s.running = false) (c : BitVec 4) :
    (∃ t, startOperation c s = .next t) ∨ (∃ r, startOperation c s = .refused (.operandNoValue r)) ∨
      (s.transportAnswers = false ∧ startOperation c s = .fault .transportSilent) ∨
      ((c.toNat = 0 ∨ 10 ≤ c.toNat) ∧ startOperation c s = .refused (.reservedOpsel c)) := by
  have hcases : Starts s (startOperation c s) ∨
      ((c.toNat = 0 ∨ 10 ≤ c.toNat) ∧ startOperation c s = .refused (.reservedOpsel c)) := by
    rcases startOperation_cases hr c with ⟨i, h | h⟩ | h
    · exact .inl (h ▸ starts_exec hr i)
    · exact .inl (h ▸ starts_startPhases hr i)
    · exact .inr h
  rcases hcases with (h | h | h) | h
  · exact .inl h
  · exact .inr (.inl h)
  · exact .inr (.inr (.inl h))
  · exact .inr (.inr (.inr h))

/-- Settles O15, from the cases of a read, of a write and of the start of an operation. -/
theorem hostAccessStopsOnlyAsStated : Obligations.HostAccessStopsOnlyAsStated := by
  unfold Obligations.HostAccessStopsOnlyAsStated
  refine ⟨fun s n index => ?_, fun s n index v => ?_⟩ <;> rcases number_cases n with ⟨r, rfl⟩ | hd
  · rw [hostAccess_read]
    rcases reads_hostPerform (isHostWrite_decodeRead r index) s with ⟨x, hx⟩ | ⟨r', hr'⟩
    · exact .inl ⟨_, hx⟩
    · exact .inr (.inl ⟨r', hr'⟩)
  · exact .inr (.inr ⟨(decodeReg_eq_none_iff n).1 hd, hostAccess_read_unassigned hd index s⟩)
  · cases hr : s.running with
    | true =>
      refine .inr (.inl ⟨rfl, ?_⟩)
      rcases hostAccess_write_cases r index v s with ⟨a, ha, -, he⟩ | he
      · exact he.trans (hostPerform_write_of_running ha hr)
      · exact he.trans (whileIdle_of_running hr s)
    | false =>
      rcases hostAccess_write_cases r index v s with ⟨a, ha, hopsel, he⟩ | he
      · rw [he]
        rcases hostPerform_write_cases ha s with ⟨c, rfl⟩ | ⟨t, ht, -⟩
        · obtain rfl := hopsel c rfl
          have hp : hostPerform (.start c) s = startOperation c s := rfl
          rw [hp]
          rcases starts_startOperation hr c with ⟨t, ht⟩ | ⟨r, h⟩ | h | ⟨hc, h⟩
          · exact .inl ⟨t, ht⟩
          · exact .inr (.inr (.inr ⟨rfl, .inr (.inl ⟨r, h⟩)⟩))
          · exact .inr (.inr (.inr ⟨rfl, .inr (.inr h)⟩))
          · exact .inr (.inr (.inr ⟨rfl, .inl ⟨c, hc, h⟩⟩))
        · exact .inl ⟨t, ht.trans (whileIdle_of_idle hr t)⟩
      · exact .inl ⟨s, he.trans (whileIdle_of_idle hr s)⟩
  · exact .inr (.inr (.inl ⟨(decodeReg_eq_none_iff n).1 hd, hostAccess_write_unassigned hd index v s⟩))

/-! ### Missing operands (R32, R182) -/

/-- The register `r` is one an operation reads, and it holds no value. -/
def LacksValue (s : State) (r : HostReg) : Prop :=
  (r = .bus ∧ s.bus = none) ∨ (r = .csLine ∧ s.csLine = none) ∨ (r = .timeout ∧ s.timeout = none) ∨
    (r = .addr ∧ s.addr = none) ∨ (r = .len ∧ s.len = none) ∨
    (r = .txbuf ∧ ∃ n, s.len = some n ∧ cellSlice s.txbuf 0 n.toNat = none)

/-- The idle block has its handle, or an operation is refused for want of one of its registers (R182). -/
theorem handle_or_refused {s : State} (hr : s.running = false) :
    (∃ h, s.Ready h) ∨ ∃ r, LacksValue s r ∧ ∀ k, withIdleHandle s k = .refused (.operandNoValue r) := by
  simp only [withIdleHandle, hr, withHandle, Bool.false_eq_true, if_false]
  rcases hb : s.bus with _ | b
  · exact .inr ⟨.bus, .inl ⟨rfl, hb⟩, fun _ => rfl⟩
  · rcases hl : s.csLine with _ | l
    · exact .inr ⟨.csLine, .inr (.inl ⟨rfl, hl⟩), fun _ => rfl⟩
    · rcases ht : s.timeout with _ | d
      · exact .inr ⟨.timeout, .inr (.inr (.inl ⟨rfl, ht⟩)), fun _ => rfl⟩
      · exact .inl ⟨⟨b, l, d⟩, hr, hb, hl, ht⟩

/-- `ADDR` and `LEN` hold values, or an operation that reads them is refused (R32). -/
theorem addrLen_or_refused (s : State) :
    (∃ a n, s.addr = some a ∧ s.len = some n) ∨
      ∃ r, LacksValue s r ∧ ∀ k, withAddrLen s k = .refused (.operandNoValue r) := by
  rcases ha : s.addr with _ | a
  · exact .inr ⟨.addr, .inr (.inr (.inr (.inl ⟨rfl, ha⟩))), fun k => by simp [withAddrLen, withAddr, ha]⟩
  · rcases hn : s.len with _ | n
    · exact .inr ⟨.len, .inr (.inr (.inr (.inr (.inl ⟨rfl, hn⟩)))), fun k => by
        simp [withAddrLen, withAddr, withLen, ha, hn]⟩
    · exact .inl ⟨a, n, rfl, rfl⟩

/-- An operation of the idle block whose operands are not in place is refused, naming one of them. -/
theorem exec_of_operands_missing {i : Instr} {s : State} {h : Handle} (hr : s.Ready h)
    (ho : s.operandsHold i = false) : ∃ r, LacksValue s r ∧ exec i s = .refused (.operandNoValue r) := by
  cases i with
  | readData =>
    rcases addrLen_or_refused s with ⟨a, n, ha, hn⟩ | ⟨r, hlack, hk⟩
    · simp [State.operandsHold, ha, hn] at ho
    · exact ⟨r, hlack, (withIdleHandle_of_ready hr _).trans (hk _)⟩
  | pageProgram =>
    rcases addrLen_or_refused s with ⟨a, n, ha, hn⟩ | ⟨r, hlack, hk⟩
    · obtain ⟨⟨hl, hal⟩, hv⟩ : (lengthError n = false ∧ alignError a n = false) ∧
          cellSlice s.txbuf 0 n.toNat = none := by
        simpa [State.operandsHold, ha, hn] using ho
      refine ⟨.txbuf, .inr (.inr (.inr (.inr (.inr ⟨rfl, n, hn, hv⟩)))), ?_⟩
      refine (withIdleHandle_of_ready hr _).trans ((withProgramParams_good ha hn hl hal _ _).trans ?_)
      simp [withPayload, hv]
    · exact ⟨r, hlack, (withIdleHandle_of_ready hr _).trans (hk _)⟩
  | _ => cases ho

/-- Settles O36: the handle comes first, then the operands. -/
theorem missingOperandsAreRefused : Obligations.MissingOperandsAreRefused := by
  unfold Obligations.MissingOperandsAreRefused
  intro i s hr hmissing
  suffices hs : ∃ r, LacksValue s r ∧ exec i s = .refused (.operandNoValue r) by
    obtain ⟨r, hlack, he⟩ := hs
    exact ⟨r, he, hlack⟩
  rcases handle_or_refused hr with ⟨h, hready⟩ | ⟨r, hlack, hk⟩
  · obtain ⟨hb, hl, ht⟩ := hready.2
    have ho : s.operandsHold i = false := by simpa [hb, hl, ht] using hmissing
    exact exec_of_operands_missing hready ho
  · obtain ⟨k, he⟩ := exec_eq_withIdleHandle i s
    exact ⟨r, hlack, he.trans (hk k)⟩

end Sys2Proof.Machine

/-! ## The invariant of the sequencer -/

namespace Sys2Proof.Machine

open Sys2Proof

/-! ### What the invariant says at `IDLE` and while an operation runs -/

theorem decodeOpsel_encode (i : Instr) : decodeOpsel (encode i) = .ok i := by
  cases i <;> rfl

theorem State.current_of_opsel {s : State} {i : Instr} (h : s.opsel = some (encode i)) : s.current = some i := by
  simp [State.current, h, decodeOpsel_encode]

theorem State.running_eq_false_iff (s : State) : s.running = false ↔ s.busy = false ∧ s.seq = .idle := by
  simp [State.running]

/-- The invariant of a block in which the operation `i` runs. -/
structure RunsWell (i : Instr) (s : State) : Prop where
  seq : s.seq ≠ .idle
  busy : s.busy = true
  txbuf : Memory.wf txbufSize s.txbuf = true
  current : s.current = some i
  phase : phaseFits i s = true
  operands : operandsFit i s = true

theorem State.inv_idle_iff {s : State} (hq : s.seq = .idle) :
    s.inv = true ↔ s.busy = false ∧ Memory.wf txbufSize s.txbuf = true ∧
      (s.opsel = none ∨ s.current.isSome = true) ∧ scratchDead s = true := by
  simp [State.inv, hq, and_assoc]

theorem State.inv_running_iff {s : State} (hq : s.seq ≠ .idle) : s.inv = true ↔ ∃ i, RunsWell i s := by
  constructor
  · intro h
    cases hc : s.current with
    | none => simp [State.inv, hq, hc] at h
    | some i =>
      simp only [State.inv, hq, hc, if_false, Bool.and_eq_true, beq_iff_eq] at h
      obtain ⟨⟨⟨hb, hw⟩, -⟩, hp, ho⟩ := h
      exact ⟨i, hq, by simp [hb, hq], hw, hc, hp, ho⟩
  · rintro ⟨i, -, hb, hw, hc, hp, ho⟩
    simp [State.inv, hq, hb, hw, hc, hp, ho]

/-- Where the invariant holds, an operation runs exactly off `IDLE` (R22). -/
theorem State.running_of_inv {s : State} (h : s.inv = true) : s.running = true ↔ s.seq ≠ .idle := by
  by_cases hq : s.seq = .idle
  · simp [State.running, hq, ((State.inv_idle_iff hq).1 h).1]
  · simp [State.running, hq]

/-- An idle block with dead scratch meets the invariant (R23). -/
theorem inv_of_toIdle {t : State} {i : Instr} (hidle : t.toIdle = t) (hw : Memory.wf txbufSize t.txbuf = true)
    (hc : t.current = some i) : t.inv = true := by
  rw [← hidle, State.inv_idle_iff rfl]
  refine ⟨rfl, hw, .inr ?_, rfl⟩
  have hc' : t.toIdle.current = some i := hc
  simp [hc']

/-- The invariant does not speak of the inputs, the data last read and the transport. -/
theorem inv_of_outside {s t : State} (hs : s.inv = true)
    (h : t = { s with inputs := t.inputs, hostData := t.hostData, transport := t.transport }) : t.inv = true := by
  rw [h]
  exact hs

/-! ### One phase -/

/-- What a phase before `COMPLETE` may write: the line, `SEQ`, the hidden scratch, the trace and the transport. -/
def MovesOn (s t : State) : Prop :=
  t = { s with
    csN := t.csN, seq := t.seq, hdr := t.hdr, srTmp := t.srTmp, idTmp := t.idTmp, err := t.err, rxTmp := t.rxTmp,
    trace := t.trace, transport := t.transport }

/-- The operands of a running operation are still in place after a phase, the payload of `PAGE_PROGRAM` among them. -/
theorem operandsFit_of_movesOn {i : Instr} {s t : State} (hm : MovesOn s t) (ho : operandsFit i s = true)
    (hpay : t.seq = .complete ∨ (s.seq ≠ .check ∧ s.seq ≠ .complete)) : operandsFit i t = true := by
  have hold : t.operandsHold i = s.operandsHold i := by rw [hm]; rfl
  have haddr : t.addr = s.addr := by rw [hm]
  have hlen : t.len = s.len := by rw [hm]
  have htx : t.txbuf = s.txbuf := by rw [hm]
  have hbus : t.bus = s.bus := by rw [hm]
  have hline : t.csLine = s.csLine := by rw [hm]
  have htime : t.timeout = s.timeout := by rw [hm]
  unfold operandsFit at ho ⊢
  rw [hold, haddr, hlen, htx, hbus, hline, htime]
  rcases hpay with hq | ⟨hcheck, hcomplete⟩
  · simp only [Bool.and_eq_true] at ho ⊢
    exact ⟨ho.1, by simp [hq]⟩
  · simp only [Bool.and_eq_true, Bool.or_eq_true, beq_iff_eq, hcheck, hcomplete, or_false] at ho ⊢
    exact ⟨ho.1, ho.2.imp_left fun h => .inl (.inl h)⟩

/-- A phase that only moves on keeps the invariant when it leaves the next phase what that one needs. -/
theorem inv_of_movesOn {i : Instr} {s t : State} (hs : RunsWell i s) (hm : MovesOn s t) (hq : t.seq ≠ .idle)
    (hf : phaseFits i t = true) (ho : operandsFit i t = true) : t.inv = true := by
  have hb : t.busy = s.busy := by rw [hm]
  have hw : t.txbuf = s.txbuf := by rw [hm]
  have hc : t.current = s.current := by rw [hm]; rfl
  exact (State.inv_running_iff hq).2 ⟨i, hq, hb ▸ hs.busy, hw ▸ hs.txbuf, hc ▸ hs.current, hf, ho⟩

/-- The same from a phase past the checks, where the operands are in place already. -/
theorem inv_of_phase {i : Instr} {s t : State} (hs : RunsWell i s) (hm : MovesOn s t) (hq : t.seq ≠ .idle)
    (hpast : s.seq ≠ .check ∧ s.seq ≠ .complete) (hf : phaseFits i t = true) : t.inv = true :=
  inv_of_movesOn hs hm hq hf (operandsFit_of_movesOn hm hs.operands (.inr hpast))

/-- A transmit phase keeps the invariant when both of its edges lead where the registers fit. -/
theorem inv_of_txPhase {i : Instr} {h : Handle} {b : List Byte} {p d : Phase} {s t : State} (hs : RunsWell i s)
    (he : txPhase h b p d s = .next t) (hpast : s.seq ≠ .check ∧ s.seq ≠ .complete) (hp : p ≠ .idle)
    (hd : d ≠ .idle) (hok : phaseFits i ((s.busTx h b).2.goto p) = true)
    (hfail : phaseFits i ((s.busTx h b).2.failTo d .comm) = true) : t.inv = true := by
  obtain rfl := settle_next he
  cases hans : (s.busTx h b).1
  · exact inv_of_phase hs rfl hd hpast hfail
  · exact inv_of_phase hs rfl hp hpast hok

/-- A receive phase keeps the invariant when both of its edges lead where the registers fit. -/
theorem inv_of_rxPhase {i : Instr} {h : Handle} {n : Nat} {keep : List Byte → State → State} {d : Phase} {s t : State}
    (hs : RunsWell i s) (he : rxPhase h n keep d s = .next t) (hpast : s.seq ≠ .check ∧ s.seq ≠ .complete)
    (hd : d ≠ .idle) (hkeep : ∀ b, MovesOn s ((keep b (s.busRx h n).2).goto d))
    (hok : ∀ b, b.length = n → phaseFits i ((keep b (s.busRx h n).2).goto d) = true)
    (hfail : phaseFits i ((s.busRx h n).2.failTo d .comm) = true) : t.inv = true := by
  obtain rfl := settle_next he
  cases hans : (s.busRx h n).1 with
  | none => exact inv_of_phase hs rfl hd hpast hfail
  | some b => exact inv_of_phase hs (hkeep b) hd hpast (hok b (Transport.rx_length hans))

/-- `CHECK` (R121, R122): a bad parameter goes to `COMPLETE` with `PARAM`, good ones go on with the payload in place. -/
theorem inv_of_check {i : Instr} {h : Handle} {s t : State} (hs : RunsWell i s) (hq : s.seq = .check)
    (he : phaseOf h i s = .next t) : t.inv = true := by
  obtain ⟨rfl, herr⟩ : i = .pageProgram ∧ s.err = some .ok := by simpa [phaseFits, hq] using hs.phase
  simp only [phaseOf, hq] at he
  obtain ⟨a, n, ha, hn, ⟨-, hk⟩ | ⟨hl, hal, hk⟩⟩ := withProgramParams_next he <;>
    obtain rfl := Host.Outcome.next.inj hk
  · have hm : MovesOn s (s.failTo .complete .param) := rfl
    exact inv_of_movesOn hs hm (by simp) (by simp [phaseFits, writesResult])
      (operandsFit_of_movesOn hm hs.operands (.inl rfl))
  · have hm : MovesOn s (s.goto .wlSel) := rfl
    refine inv_of_movesOn hs hm (by simp) (by simp [phaseFits, usesLatch, herr]) ?_
    have ho := hs.operands
    simp only [operandsFit, State.operandsHold, ha, hn, hl, hal, Bool.false_or, Bool.and_eq_true] at ho
    simp [operandsFit, State.operandsHold, ha, hn, hl, hal, ho]

/-- Back at `IDLE` a running operation leaves the invariant, whatever it wrote on the way (R149). -/
theorem inv_of_ended {i : Instr} {s t : State} (hs : RunsWell i s) (hidle : t.toIdle = t) (hw : t.txbuf = s.txbuf)
    (ho : t.opsel = s.opsel) : t.inv = true := by
  refine inv_of_toIdle hidle (hw ▸ hs.txbuf) (i := i) ?_
  rw [← hs.current, State.current, State.current, ho]

/-- `COMPLETE` (R149) goes back to `IDLE`. -/
theorem inv_of_completePhase {i : Instr} {s t : State} (hs : RunsWell i s) (he : completePhase i s = .next t) :
    t.inv = true := by
  unfold completePhase at he
  cases herr : s.err with
  | none => simp [herr] at he
  | some e =>
    simp only [herr] at he
    cases i <;> simp only [reduceCtorEq, Host.Outcome.next.injEq] at he
    case pageProgram =>
      split at he
      · obtain ⟨a, n, -, -, hk⟩ := withAddrLen_next he
        obtain rfl := Host.Outcome.next.inj hk
        exact inv_of_ended hs rfl rfl rfl
      · obtain rfl := Host.Outcome.next.inj he
        exact inv_of_ended hs rfl rfl rfl
    all_goals
      subst he
      exact inv_of_ended hs rfl rfl rfl

/-- The three phases that close a window (R144): on to `p` where `ERR` is `OK`, else to `COMPLETE`. -/
theorem inv_of_closingPhase {i : Instr} {h : Handle} {p : Phase} {s : State} (hs : RunsWell i s)
    (hpast : s.seq ≠ .check ∧ s.seq ≠ .complete) (hp : p ≠ .idle) (herr : errOpen s = true)
    (hw : writesResult i = true)
    (hok : s.err = some .ok → phaseFits i ((s.csSet h .high).goto p) = true) :
    ((s.csSet h .high).leaveWindow p).inv = true := by
  by_cases hgood : s.err = some .ok
  · have ht : (s.csSet h .high).leaveWindow p = (s.csSet h .high).goto p := by
      simp [State.leaveWindow, State.goto, hgood]
    rw [ht]
    exact inv_of_phase hs rfl hp hpast (hok hgood)
  · have hcomm : s.err = some .comm := by simpa [errOpen, hgood] using herr
    refine inv_of_phase hs rfl (by simp [hgood]) hpast ?_
    simp [phaseFits, hcomm, hw]

theorem writesResult_of_usesLatch {i : Instr} {pre : Bool} (h : usesLatch i pre = true) : writesResult i = true := by
  revert h
  cases i <;> simp [usesLatch, writesResult]

theorem writesResult_of_hasOwnFrame {i : Instr} (h : hasOwnFrame i = true) : writesResult i = true := by
  revert h
  cases i <;> simp [hasOwnFrame, writesResult]

/-- The header of an operation's frame is assembled from `ADDR` alone (R147). -/
theorem headerOf_congr (i : Instr) {s t : State} (h : t.addr = s.addr) : headerOf i t = headerOf i s := by
  cases i <;> simp [headerOf, h]

theorem phaseFits_cmdHdr {i : Instr} {s : State} (hq : s.seq = .cmdHdr) (hown : hasOwnFrame i = true)
    (herr : s.err = some .ok) (hlow : s.csN = .low) (hhdr : s.hdr = (headerOf i s).map Header.bytes) :
    phaseFits i s = true := by
  simp [phaseFits, hq, hown, herr, hlow, hhdr]

/-- A phase of a running operation keeps the invariant (R140 to R149), phase by phase: what `phaseFits` grants at the
phase is what the phases after it need. -/
theorem inv_of_phaseOf {i : Instr} {h : Handle} {s t : State} (hs : RunsWell i s) (he : phaseOf h i s = .next t) :
    t.inv = true := by
  have hf := hs.phase
  unfold phaseOf at he
  cases hq : s.seq <;> simp only [hq] at he
  case idle => exact absurd hq hs.seq
  case check => exact inv_of_check (h := h) hs hq (by simpa only [phaseOf, hq] using he)
  case wlSel =>
    obtain rfl := Host.Outcome.next.inj he
    obtain ⟨hu, herr⟩ := by simpa [phaseFits, hq] using hf
    exact inv_of_phase hs rfl (by simp) (by simp [hq]) (by simp [phaseFits, hu, herr])
  case wlTx =>
    obtain ⟨⟨hu, herr⟩, hlow⟩ := by simpa [phaseFits, hq] using hf
    exact inv_of_txPhase hs he (by simp [hq]) (by simp) (by simp)
      (by simp [phaseFits, errOpen, hu, herr, hlow]) (by simp [phaseFits, errOpen, hu, hlow])
  case wlDes =>
    obtain rfl := Host.Outcome.next.inj he
    obtain ⟨⟨hu, herr⟩, -⟩ : (usesLatch i s.readPreWren = true ∧ errOpen s = true) ∧ s.csN = .low := by
      simpa [phaseFits, hq] using hf
    exact inv_of_closingPhase hs (by simp [hq]) (by simp) herr (writesResult_of_usesLatch hu)
      (fun hok => by simp [phaseFits, hu, hok])
  case srSel =>
    obtain rfl := Host.Outcome.next.inj he
    obtain ⟨hu, herr⟩ := by simpa [phaseFits, hq] using hf
    exact inv_of_phase hs rfl (by simp) (by simp [hq]) (by simp [phaseFits, hu, herr])
  case srTx =>
    obtain ⟨⟨hu, herr⟩, hlow⟩ := by simpa [phaseFits, hq] using hf
    exact inv_of_txPhase hs he (by simp [hq]) (by simp) (by simp)
      (by simp [phaseFits, hu, herr, hlow]) (by simp [phaseFits, errOpen, hu, hlow])
  case srRx =>
    obtain ⟨⟨hu, herr⟩, hlow⟩ := by simpa [phaseFits, hq] using hf
    refine inv_of_rxPhase hs he (by simp [hq]) (by simp) (fun b => rfl) (fun b hb => ?_)
      (by simp [phaseFits, errOpen, hu, hlow])
    obtain ⟨x, rfl⟩ := List.length_eq_one_iff.1 hb
    simp [phaseFits, errOpen, hu, herr, hlow]
  case srDes =>
    obtain rfl := Host.Outcome.next.inj he
    obtain ⟨⟨⟨hu, herr⟩, -⟩, hsr⟩ : (((i = .readStatus ∨ usesLatch i s.readPreWren = true) ∧ errOpen s = true) ∧
        s.csN = .low) ∧ (s.err ≠ some .ok ∨ s.srTmp.isSome = true) := by
      simpa [phaseFits, hq] using hf
    have hw : writesResult i = true := hu.elim (fun hi => hi ▸ rfl) writesResult_of_usesLatch
    refine inv_of_closingPhase hs (by simp [hq]) (by cases i <;> simp [afterStatus]) herr hw (fun hok => ?_)
    have hsome : s.srTmp.isSome = true := hsr.resolve_left (absurd hok)
    rcases hu with rfl | hu
    · simp [phaseFits, afterStatus, hok, hsome, writesResult]
    · have hnext : afterStatus i = .wlVerify := by
        revert hu
        cases i <;> simp [afterStatus, usesLatch]
      simp [phaseFits, hnext, hu, hok, hsome]
  case wlVerify =>
    obtain ⟨⟨⟨hu, herr⟩, hhigh⟩, hsr⟩ := by simpa [phaseFits, hq] using hf
    obtain ⟨b, hb⟩ := Option.isSome_iff_exists.1 hsr
    simp only [hb] at he
    obtain rfl := Host.Outcome.next.inj he
    split
    · refine inv_of_phase hs rfl (by cases i <;> simp [afterVerify]) (by simp [hq]) ?_
      revert hu
      cases i <;> simp [usesLatch, afterVerify, phaseFits, hasOwnFrame, writesResult, herr, hhigh]
    · exact inv_of_phase hs rfl (by simp) (by simp [hq])
        (by simp [phaseFits, hhigh, writesResult_of_usesLatch hu])
  case cmdSel =>
    obtain ⟨hu, herr⟩ := by simpa [phaseFits, hq] using hf
    split at he
    · obtain rfl := Host.Outcome.next.inj he
      exact inv_of_ended hs rfl rfl rfl
    · rename_i hi
      have hown := hu.resolve_left hi
      split at he
      · cases he
      · rename_i hd hhd
        obtain rfl := Host.Outcome.next.inj he
        refine inv_of_phase hs rfl (by simp) (by simp [hq]) (phaseFits_cmdHdr rfl hown herr rfl ?_)
        exact (congrArg (Option.map Header.bytes) ((headerOf_congr i rfl).trans hhd)).symm
  case cmdHdr =>
    obtain ⟨⟨⟨hown, herr⟩, hlow⟩, -⟩ := by simpa [phaseFits, hq] using hf
    split at he
    · cases he
    · refine inv_of_txPhase hs he (by simp [hq]) (by cases i <;> simp [afterHeader]) (by simp) ?_
        (by simp [phaseFits, errOpen, hown, hlow])
      revert hown
      cases i <;> simp [hasOwnFrame, afterHeader, phaseFits, errOpen, herr, hlow]
  case cmdDtx =>
    obtain ⟨⟨rfl, herr⟩, hlow⟩ := by simpa [phaseFits, hq] using hf
    obtain ⟨n, -, he⟩ := withLen_next he
    obtain ⟨v, -, he⟩ := withPayload_next he
    exact inv_of_txPhase hs he (by simp [hq]) (by simp) (by simp)
      (by simp [phaseFits, errOpen, hasOwnFrame, herr, hlow]) (by simp [phaseFits, errOpen, hasOwnFrame, hlow])
  case cmdDrx =>
    obtain ⟨⟨rfl | rfl, herr⟩, hlow⟩ := by simpa [phaseFits, hq] using hf
    · exact inv_of_rxPhase hs he (by simp [hq]) (by simp) (fun b => rfl)
        (fun b _ => by simp [phaseFits, errOpen, hasOwnFrame, herr, hlow])
        (by simp [phaseFits, errOpen, hasOwnFrame, hlow])
    · obtain ⟨n, -, he⟩ := withLen_next he
      exact inv_of_rxPhase hs he (by simp [hq]) (by simp) (fun b => rfl)
        (fun b _ => by simp [phaseFits, errOpen, hasOwnFrame, herr, hlow])
        (by simp [phaseFits, errOpen, hasOwnFrame, hlow])
  case cmdDes =>
    split at he
    · obtain rfl := Host.Outcome.next.inj he
      exact inv_of_ended hs rfl rfl rfl
    · rename_i hi
      obtain rfl := Host.Outcome.next.inj he
      obtain ⟨⟨⟨⟨hown, herr⟩, -⟩, -⟩, hrx⟩ : (((hasOwnFrame i = true ∧ errOpen s = true) ∧ s.csN = .low) ∧
          ((s.err ≠ some .ok ∨ i ≠ .verifyId) ∨ s.idTmp.isSome = true)) ∧
          ((s.err ≠ some .ok ∨ i ≠ .readData) ∨ s.rxTmp.isSome = true) := by
        simpa [phaseFits, hq, hi] using hf
      refine inv_of_closingPhase hs (by simp [hq]) (by simp) herr (writesResult_of_hasOwnFrame hown) (fun hok => ?_)
      have haddr : i ≠ .pageProgram ∨ s.addr.isSome = true := by
        refine or_iff_not_imp_left.2 fun hi => ?_
        obtain rfl := not_not.1 hi
        have ho := hs.operands
        simp only [operandsFit, hq, Bool.and_eq_true, Bool.or_eq_true] at ho
        simpa using (ho.2.resolve_left (by decide)).1
      have hstatus : i ≠ .readStatus := by
        rintro rfl
        cases hown
      have hdata : i ≠ .readData ∨ s.rxTmp.isSome = true := hrx.imp_left (·.resolve_left (absurd hok))
      simpa [phaseFits, hok, writesResult_of_hasOwnFrame hown, hstatus, haddr] using hdata
  case complete => exact inv_of_completePhase hs he

/-- A performed phase keeps the invariant. -/
theorem inv_of_phaseStep {s t : State} (hs : s.inv = true) (hr : s.running = true) (he : phaseStep s = .next t) :
    t.inv = true := by
  obtain ⟨i, hrun⟩ := (State.inv_running_iff ((State.running_of_inv hs).1 hr)).1 hs
  obtain ⟨b, -, he⟩ := withOperand_next he
  obtain ⟨l, -, he⟩ := withOperand_next he
  obtain ⟨d, -, he⟩ := withOperand_next he
  split at he
  · rename_i j hj
    have hc : s.current = some j := by
      cases ho : s.opsel with
      | none => simp [ho] at hj
      | some c =>
        have hd : decodeOpsel c = .ok j := by simpa [ho] using hj
        simp [State.current, ho, hd]
    obtain rfl : i = j := Option.some.inj (hrun.current.symm.trans hc)
    exact inv_of_phaseOf hrun he
  · cases he

/-! ### The host port and the inputs -/

/-- An operation run to its end leaves the idle block of the invariant. -/
theorem inv_of_exec {i : Instr} {s t : State} (hs : s.inv = true) (he : exec i s = .next t) : t.inv = true := by
  obtain ⟨h, tr, hr, hend, -, -⟩ := exec_ends he
  have hq := ((State.running_eq_false_iff s).1 hr.1).2
  have hw : t.txbuf = s.txbuf := by rw [hend]
  have ho : t.opsel = some (encode i) := by rw [hend]
  refine inv_of_toIdle ?_ (hw ▸ ((State.inv_idle_iff hq).1 hs).2.1) (State.current_of_opsel ho)
  rw [hend]
  rfl

/-- An operation entered at its first phase with its operands in place meets the invariant (R141, R142). -/
theorem inv_of_entered {i : Instr} {s : State} {h : Handle} (hs : s.inv = true) (hr : s.Ready h)
    (ho : s.operandsHold i = true) : ((s.begin i).goto (firstPhase i s.readPreWren)).inv = true := by
  obtain ⟨hb, hl, ht⟩ := hr.2
  have hq := ((State.running_eq_false_iff s).1 hr.1).2
  have hne : firstPhase i s.readPreWren ≠ .idle := by
    cases i <;> cases s.readPreWren <;> simp [firstPhase]
  refine (State.inv_running_iff hne).2 ⟨i, hne, rfl, ((State.inv_idle_iff hq).1 hs).2.1,
    State.current_of_opsel rfl, ?_, ?_⟩
  · cases i <;> cases hp : s.readPreWren <;> simp [phaseFits, firstPhase, usesLatch, hasOwnFrame, hp]
  · have ho' : ((s.begin i).goto (firstPhase i s.readPreWren)).operandsHold i = true := ho
    simp only [operandsFit, ho', State.goto_bus, State.begin_bus, hb, State.goto_csLine, State.begin_csLine, hl,
      State.goto_timeout, State.begin_timeout, ht, State.goto_seq]
    cases i <;> simp [firstPhase]

theorem startPhases_next {i : Instr} {s t : State} (he : startPhases i s = .next t) :
    (∃ h, s.Ready h) ∧ s.operandsHold i = true ∧ t = (s.begin i).goto (firstPhase i s.readPreWren) := by
  obtain ⟨h, hr, he⟩ := withIdleHandle_next he
  refine ⟨⟨h, hr⟩, ?_⟩
  cases i with
  | pageProgram =>
    obtain ⟨a, n, ha, hn, ⟨hb, he⟩ | ⟨hl, hal, he⟩⟩ := withProgramParams_next he
    · refine ⟨?_, (Host.Outcome.next.inj he).symm⟩
      rcases hb with hb | hb <;> simp [State.operandsHold, ha, hn, hb]
    · obtain ⟨v, hv, he⟩ := withPayload_next he
      exact ⟨by simp [State.operandsHold, ha, hn, hv], (Host.Outcome.next.inj he).symm⟩
  | readData =>
    obtain ⟨a, n, ha, hn, he⟩ := withAddrLen_next he
    exact ⟨by simp [State.operandsHold, ha, hn], (Host.Outcome.next.inj he).symm⟩
  | _ => exact ⟨rfl, (Host.Outcome.next.inj he).symm⟩

theorem inv_of_startPhases {i : Instr} {s t : State} (hs : s.inv = true) (he : startPhases i s = .next t) :
    t.inv = true := by
  obtain ⟨⟨h, hr⟩, ho, rfl⟩ := startPhases_next he
  exact inv_of_entered hs hr ho

/-- A register written by the host in the idle block keeps the invariant. -/
theorem inv_of_hostWrites {s t : State} (hs : s.inv = true) (hr : s.running = false) (hw : HostWrites s t) :
    t.inv = true := by
  obtain ⟨ht, hwf⟩ := hw
  have hq := ((State.running_eq_false_iff s).1 hr).2
  obtain ⟨hb, hw, ho, hd⟩ := (State.inv_idle_iff hq).1 hs
  have hq' : t.seq = .idle := by rw [ht]; exact hq
  refine (State.inv_idle_iff hq').2 ⟨?_, hwf hw, ?_, ?_⟩ <;> rw [ht]
  · exact hb
  · exact ho
  · exact hd

theorem inv_of_startOperation {c : BitVec 4} {s t : State} (hs : s.inv = true)
    (he : startOperation c s = .next t) : t.inv = true := by
  cases hr : s.running with
  | true => simp [startOperation, hr] at he
  | false =>
    rcases startOperation_cases hr c with ⟨i, h | h⟩ | ⟨-, h⟩ <;> rw [h] at he
    · exact inv_of_exec hs he
    · exact inv_of_startPhases hs he
    · cases he

theorem inv_of_whileIdle {s t u : State} (hs : s.inv = true) (hw : HostWrites s u) (he : whileIdle s u = .next t) :
    t.inv = true := by
  cases hr : s.running with
  | true => simp [whileIdle, hr] at he
  | false =>
    obtain rfl : u = t := by simpa [whileIdle, hr] using he
    exact inv_of_hostWrites hs hr hw

theorem inv_of_hostPerform {a : HostAccess} {s t : State} (hs : s.inv = true) (he : hostPerform a s = .next t) :
    t.inv = true := by
  cases ha : isHostWrite a with
  | true =>
    rcases hostPerform_write_cases ha s with ⟨c, rfl⟩ | ⟨u, hu, hw⟩
    · exact inv_of_startOperation hs he
    · exact inv_of_whileIdle hs hw (hu.symm.trans he)
  | false =>
    rcases reads_hostPerform ha s with ⟨v, hv⟩ | ⟨r, hr⟩
    · obtain rfl := Host.Outcome.next.inj (hv.symm.trans he)
      exact inv_of_outside hs rfl
    · rw [hr] at he
      cases he

theorem inv_of_hostAccess {a : RawAccess} {s t : State} (hs : s.inv = true) (he : hostAccess a s = .next t) :
    t.inv = true := by
  cases a with
  | write n index v =>
    rcases number_cases n with ⟨r, rfl⟩ | hd
    · rcases hostAccess_write_cases r index v s with ⟨a, -, -, h⟩ | h <;> rw [h] at he
      · exact inv_of_hostPerform hs he
      · exact inv_of_whileIdle hs ⟨rfl, id⟩ he
    · rw [hostAccess_write_unassigned hd] at he
      cases he
  | read n index =>
    rcases number_cases n with ⟨r, rfl⟩ | hd
    · rw [hostAccess_read] at he
      exact inv_of_hostPerform hs he
    · rw [hostAccess_read_unassigned hd] at he
      cases he

/-- Settles O53, by evaluating the invariant on the reset state. -/
theorem resetMeetsTheInvariant : Obligations.ResetMeetsTheInvariant := by
  unfold Obligations.ResetMeetsTheInvariant
  decide

theorem inv_applyReset (s : State) : s.applyReset.inv = true := resetMeetsTheInvariant

theorem inv_of_takeInput {inp : Input} {s rest t : State} (hs : s.inv = true) (hrest : rest.inv = true)
    (hrun : rest.running = s.running) (he : takeInput inp s rest = .next t) : t.inv = true := by
  cases inp with
  | access a => exact inv_of_hostAccess hrest he
  | wait =>
    simp only [takeInput] at he
    split at he
    · exact inv_of_phaseStep hs ‹_› he
    · exact Host.Outcome.next.inj he ▸ hrest
  | phase =>
    simp only [takeInput] at he
    split at he
    · rename_i hr
      exact inv_of_phaseStep hrest (hrun.trans hr) he
    · exact Host.Outcome.next.inj he ▸ hrest
  | reset => exact Host.Outcome.next.inj he ▸ inv_applyReset rest
  | envComplete =>
    obtain rfl := Host.Outcome.next.inj he
    exact inv_of_outside hrest rfl

/-- Settles O54: every input, the host's accesses and the sequencer's phases among them, keeps the invariant. -/
theorem stepKeepsTheInvariant : Obligations.StepKeepsTheInvariant := by
  unfold Obligations.StepKeepsTheInvariant
  intro s t hs he
  unfold step stepInputs at he
  split at he
  · unfold noInput at he
    split at he
    · exact inv_of_phaseStep hs ‹_› he
    · exact Host.Outcome.next.inj he ▸ hs
  · rename_i inp rest _
    have hrest : ({ s with inputs := rest } : State).inv = true := inv_of_outside hs rfl
    exact inv_of_takeInput hs hrest rfl he

end Sys2Proof.Machine

/-! ## The step and the state after reset -/

namespace Sys2Proof.Machine

open Sys2Proof

/-- Settles O20, field by field. -/
theorem resetLeavesTheStatedValues : Obligations.ResetLeavesTheStatedValues := by
  unfold Obligations.ResetLeavesTheStatedValues
  exact ⟨rfl, rfl, rfl, rfl, rfl, rfl, rfl, rfl, rfl, fun _ => rfl, rfl, rfl, rfl, rfl, rfl, rfl, rfl, rfl⟩

theorem step_of_no_input {s : State} (hin : s.inputs = []) : step s = noInput s := by
  simp [step, stepInputs, hin]

theorem step_of_access {s : State} {a : RawAccess} {rest : List Input} (hin : s.inputs = .access a :: rest) :
    step s = hostAccess a { s with inputs := rest } := by
  simp [step, stepInputs, hin, takeInput]

/-- Settles O10: without an input the step is `noInput`. -/
theorem stepWithoutInput : Obligations.StepWithoutInput := by
  unfold Obligations.StepWithoutInput
  intro s hin
  rw [step_of_no_input hin]
  exact ⟨fun hr => by simp [noInput, hr], fun hr => by simp [noInput, hr]⟩

/-- A write of four bits to `OPSEL` is the start of the operation they name. -/
theorem hostAccess_write_opsel {v : Nat} (hv : v < 16) (index : Nat) (s : State) :
    hostAccess (.write (HostReg.number .opsel) index (.bits v)) s = startOperation (BitVec.ofNat 4 v) s := by
  refine hostAccess_write_ok (r := .opsel) (a := .start (BitVec.ofNat 4 v)) ?_ s
  simp [decodeWrite, boundedBits, hv, Except.map]

/-- A word of the table that decodes is the code of its operation, four bits wide (log entry 27). -/
theorem decodeTableWord_eight {w : Nat} {i : Instr} (h : decodeTableWord 8 w = some i) :
    ((tableBytes 8 w).headD 0).toNat < 16 ∧
      decodeOpsel (BitVec.ofNat 4 ((tableBytes 8 w).headD 0).toNat) = .ok i := by
  have hbytes : tableBytes 8 w = [BitVec.ofNat 8 w] := by simp [tableBytes]
  rw [hbytes]
  simp only [decodeTableWord, hbytes, decodeBytes] at h
  generalize BitVec.ofNat 8 w = b at h
  by_cases hhigh : b.extractLsb' 4 4 = 0
  · have hlow : BitVec.ofNat 4 b.toNat = b.extractLsb' 0 4 := by
      apply BitVec.eq_of_toNat_eq
      simp
    have hlt : b.toNat < 16 := by
      have hz := congrArg BitVec.toNat hhigh
      simp [Nat.shiftRight_eq_div_pow] at hz
      omega
    simp only [hhigh, if_true] at h
    refine ⟨hlt, ?_⟩
    simp only [List.headD_cons, hlow]
    cases hd : decodeOpsel (b.extractLsb' 0 4) with
    | ok j => simpa [hd] using h
    | error e => simp [hd] at h
  · simp only [hhigh, if_false, reduceCtorEq] at h

/-- In the atomic grain the write of a defined code is the whole operation (R152). -/
theorem startOperation_atomic {s : State} {c : BitVec 4} {i : Instr} (hr : s.running = false)
    (hd : decodeOpsel c = .ok i) (hg : s.grain = .atomic) : startOperation c s = exec i s := by
  simp only [startOperation, hr, hd, hg, Bool.false_eq_true, if_false]

/-- In the phased grain the write of a defined code enters the operation's first phase (R152). -/
theorem startOperation_phased {s : State} {c : BitVec 4} {i : Instr} (hr : s.running = false)
    (hd : decodeOpsel c = .ok i) (hg : s.grain = .phased) : startOperation c s = startPhases i s := by
  simp only [startOperation, hr, hd, hg, Bool.false_eq_true, if_false]

/-- Settles O9: both writes reach `startOperation` with the code of the operation. -/
theorem stepRunsTheDecodedOperation : Obligations.StepRunsTheDecodedOperation := by
  unfold Obligations.StepRunsTheDecodedOperation
  refine ⟨fun s v i rest hin hv hd hr => ?_, fun s w i hw hr hg => ?_⟩
  · rw [step_of_access hin, hostAccess_write_opsel hv]
    split <;> rename_i hg
    · exact startOperation_atomic hr hd hg
    · exact startOperation_phased hr hd hg
  · obtain ⟨hv, hd⟩ := decodeTableWord_eight hw
    have hin : (s.withFetchWord 8 w).inputs = opselWrite 8 w :: s.inputs := rfl
    rw [step_of_access hin, hostAccess_write_opsel hv]
    exact startOperation_atomic (s := s.launch) hr hd hg

end Sys2Proof.Machine

/-! ## Two runs in lockstep

Two states that agree on all the bus primitives look at, but not on some registers, go through an operation side by
side. `E` relates them on the way and `F i` at the end of operation `i`. -/

namespace Sys2Proof.Machine

open Sys2Proof

/-- `E` is kept by the primitives and by the hidden scratch an operation writes, and every way operation `i` can end
turns it into `F i`. -/
structure Lockstep (E : State → State → Prop) (F : Instr → State → State → Prop) : Prop where
  csSet : ∀ {s t}, E s t → ∀ h l, E (s.csSet h l) (t.csSet h l)
  busTx : ∀ {s t}, E s t → ∀ h b, (s.busTx h b).1 = (t.busTx h b).1 ∧ E (s.busTx h b).2 (t.busTx h b).2
  busRx : ∀ {s t}, E s t → ∀ h n, (s.busRx h n).1 = (t.busRx h n).1 ∧ E (s.busRx h n).2 (t.busRx h n).2
  srTmp : ∀ {s t}, E s t → ∀ x, E { s with srTmp := x } { t with srTmp := x }
  idTmp : ∀ {s t}, E s t → ∀ x, E { s with idTmp := x } { t with idTmp := x }
  hdr : ∀ {s t}, E s t → ∀ x, E { s with hdr := x } { t with hdr := x }
  addr : ∀ {s t}, E s t → ∀ x, E { s with addr := x } { t with addr := x }
  complete : ∀ {s t}, E s t → ∀ i k, i ≠ .readStatus → i ≠ .readData → F i (s.complete k) (t.complete k)
  completeStatus : ∀ {s t}, E s t → ∀ x k,
    F .readStatus ({ s with status := x }.complete k) ({ t with status := x }.complete k)
  completeRxbuf : ∀ {s t}, E s t → ∀ x k,
    F .readData ({ s with rxbuf := x }.complete k) ({ t with rxbuf := x }.complete k)

/-- Two results with the same answer and related states. -/
def SameAnswer {α : Type} (E : State → State → Prop) (x y : α × State) : Prop := x.1 = y.1 ∧ E x.2 y.2

section
variable {E : State → State → Prop} {F : Instr → State → State → Prop}

theorem Lockstep.window (L : Lockstep E F) {α : Type} {s t : State} {h : Handle} {body : State → α × State}
    (hb : SameAnswer E (body (s.csSet h .low)) (body (t.csSet h .low))) :
    SameAnswer E (window h body s) (window h body t) :=
  ⟨hb.1, L.csSet hb.2 h .high⟩

theorem Lockstep.sendReceive (L : Lockstep E F) {s t : State} (hst : E s t) (h : Handle) (hdr : List Byte) (n : Nat) :
    SameAnswer E (sendReceive h hdr n s) (sendReceive h hdr n t) := by
  obtain ⟨ha, hE⟩ := L.busTx hst h hdr
  unfold Machine.sendReceive
  simp only [ha]
  split
  · exact L.busRx hE h n
  · exact ⟨rfl, hE⟩

theorem Lockstep.sendSend (L : Lockstep E F) {s t : State} (hst : E s t) (h : Handle) (hdr v : List Byte) :
    SameAnswer E (sendSend h hdr v s) (sendSend h hdr v t) := by
  obtain ⟨ha, hE⟩ := L.busTx hst h hdr
  unfold Machine.sendSend
  simp only [ha]
  split
  · exact L.busTx hE h v
  · exact ⟨rfl, hE⟩

theorem Lockstep.windowTx (L : Lockstep E F) {s t : State} (hst : E s t) (h : Handle) (b : List Byte) :
    SameAnswer E (Machine.window h (State.busTx h b) s) (Machine.window h (State.busTx h b) t) :=
  L.window (L.busTx (L.csSet hst h .low) h b)

theorem Lockstep.readFrame (L : Lockstep E F) {s t : State} (hst : E s t) (h : Handle) (hdr : List Byte) (n : Nat) :
    SameAnswer E (Machine.window h (Machine.sendReceive h hdr n) s) (Machine.window h (Machine.sendReceive h hdr n) t) :=
  L.window (L.sendReceive (L.csSet hst h .low) h hdr n)

theorem Lockstep.memWrite (L : Lockstep E F) {s t : State} (hst : E s t) (h : Handle) (a : Addr24) (v : List Byte) :
    SameAnswer E (memWrite h a v s) (memWrite h a v t) :=
  L.window (L.sendSend (L.csSet hst h .low) h _ v)

theorem Lockstep.readStatusSeq (L : Lockstep E F) {s t : State} (hst : E s t) (h : Handle) :
    SameAnswer E (readStatusSeq h s) (readStatusSeq h t) := by
  obtain ⟨ha, hE⟩ := L.readFrame hst h (Header.bytes .readStatus) 1
  exact ⟨congrArg (Option.bind · List.head?) ha, hE⟩

theorem Lockstep.latchSeq (L : Lockstep E F) {s t : State} (hst : E s t) (h : Handle) (cmd : Header) (want : Bool) :
    SameAnswer E (latchSeq h cmd want s) (latchSeq h cmd want t) := by
  obtain ⟨ha, hE⟩ := L.windowTx hst h cmd.bytes
  obtain ⟨hb, hE'⟩ := L.readStatusSeq hE h
  unfold Machine.latchSeq
  simp only [ha, hb]
  split
  · split
    · exact ⟨rfl, hE'⟩
    · exact ⟨rfl, L.srTmp hE' _⟩
  · exact ⟨rfl, hE⟩

/-! ### The seven operations that write `RESULT` -/

theorem Lockstep.runVerifyId (L : Lockstep E F) {s t : State} (hst : E s t) (h : Handle) :
    F .verifyId (runVerifyId h s) (runVerifyId h t) := by
  obtain ⟨ha, hE⟩ := L.readFrame (L.hdr hst (some (Header.bytes .readId))) h (Header.bytes .readId) 2
  unfold Machine.runVerifyId
  simp only [ha]
  split
  · exact L.complete hE .verifyId _ (by simp) (by simp)
  · exact L.complete (L.idTmp hE _) .verifyId _ (by simp) (by simp)

theorem Lockstep.runReadStatus (L : Lockstep E F) {s t : State} (hst : E s t) (h : Handle) :
    F .readStatus (runReadStatus h s) (runReadStatus h t) := by
  obtain ⟨ha, hE⟩ := L.readStatusSeq hst h
  unfold Machine.runReadStatus
  simp only [ha]
  split
  · exact L.completeStatus hE _ _
  · exact L.completeStatus hE none .comm

theorem Lockstep.runWriteEnable (L : Lockstep E F) {s t : State} (hst : E s t) (h : Handle) :
    F .writeEnable (runWriteEnable h s) (runWriteEnable h t) := by
  obtain ⟨ha, hE⟩ := L.latchSeq hst h .writeEnable true
  unfold Machine.runWriteEnable writeEnableSeq
  simp only [ha]
  exact L.complete hE .writeEnable _ (by simp) (by simp)

theorem Lockstep.runWriteDisable (L : Lockstep E F) {s t : State} (hst : E s t) (h : Handle) :
    F .writeDisable (runWriteDisable h s) (runWriteDisable h t) := by
  obtain ⟨ha, hE⟩ := L.latchSeq hst h .writeDisable false
  unfold Machine.runWriteDisable writeDisableSeq
  simp only [ha]
  exact L.complete hE .writeDisable _ (by simp) (by simp)

theorem Lockstep.runChipErase (L : Lockstep E F) {s t : State} (hst : E s t) (h : Handle) :
    F .chipErase (runChipErase h s) (runChipErase h t) := by
  obtain ⟨ha, hE⟩ := L.latchSeq hst h .writeEnable true
  obtain ⟨hb, hE'⟩ := L.windowTx hE h (Header.bytes .chipErase)
  unfold Machine.runChipErase writeEnableSeq
  simp only [ha, hb]
  split
  · split
    · exact L.complete hE' .chipErase _ (by simp) (by simp)
    · exact L.complete hE' .chipErase _ (by simp) (by simp)
  · exact L.complete hE .chipErase _ (by simp) (by simp)

theorem Lockstep.runPageProgram (L : Lockstep E F) {s t : State} (hst : E s t) (h : Handle) (a n : Word32)
    (v : List Byte) : F .pageProgram (runPageProgram h a n v s) (runPageProgram h a n v t) := by
  obtain ⟨ha, hE⟩ := L.latchSeq hst h .writeEnable true
  obtain ⟨hb, hE'⟩ := L.memWrite (L.hdr hE (some (Header.bytes (.pageProgram (addr24 a))))) h (addr24 a) v
  unfold Machine.runPageProgram writeEnableSeq
  simp only [ha, hb]
  split
  · split
    · exact L.complete (L.addr hE' _) .pageProgram _ (by simp) (by simp)
    · exact L.complete hE' .pageProgram _ (by simp) (by simp)
  · exact L.complete hE .pageProgram _ (by simp) (by simp)

theorem Lockstep.runReadFrame (L : Lockstep E F) {s t : State} (hst : E s t) (h : Handle) (a n : Word32) :
    F .readData (runReadFrame h a n s) (runReadFrame h a n t) := by
  obtain ⟨ha, hE⟩ := L.readFrame (L.hdr hst (some (Header.bytes (.readBytes (addr24 a))))) h
    (Header.bytes (.readBytes (addr24 a))) n.toNat
  unfold Machine.runReadFrame memRead
  simp only [ha]
  split
  · exact L.completeRxbuf hE _ _
  · exact L.completeRxbuf hE none .comm

theorem Lockstep.runReadData (L : Lockstep E F) {s t : State} (hst : E s t) (hpre : s.readPreWren = t.readPreWren)
    (h : Handle) (a n : Word32) : F .readData (runReadData h a n s) (runReadData h a n t) := by
  obtain ⟨ha, hE⟩ := L.latchSeq hst h .writeEnable true
  unfold Machine.runReadData writeEnableSeq
  simp only [ha, hpre]
  split
  · split
    · exact L.runReadFrame hE h a n
    · exact L.completeRxbuf hE none _
  · exact L.runReadFrame hst h a n

/-! ### Outcomes -/

/-- Two outcomes that stop alike, or answer next states in the relation `R`. -/
def SameOutcome (R : State → State → Prop) (o o' : Outcome) : Prop :=
  match o, o' with
  | .next t, .next t' => R t t'
  | .fault f, .fault f' => f = f'
  | .refused r, .refused r' => r = r'
  | _, _ => False

theorem SameOutcome.of_next {R : State → State → Prop} {t : State} {o : Outcome} (h : SameOutcome R (.next t) o) :
    ∃ t', o = .next t' ∧ R t t' := by
  cases o with
  | next t' => exact ⟨t', rfl, h⟩
  | _ => exact h.elim

theorem SameOutcome.of_fault {R : State → State → Prop} {f : Fault} {o : Outcome} (h : SameOutcome R (.fault f) o) :
    o = .fault f := by
  cases o with
  | fault f' => exact congrArg _ (Eq.symm h)
  | _ => exact h.elim

theorem SameOutcome.of_refused {R : State → State → Prop} {r : Refusal} {o : Outcome}
    (h : SameOutcome R (.refused r) o) : o = .refused r := by
  cases o with
  | refused r' => exact congrArg _ (Eq.symm h)
  | _ => exact h.elim

theorem sameOutcome_withOperand {α : Type} {R : State → State → Prop} {r : HostReg} {x : Option α}
    {k k' : α → Outcome} (hk : ∀ v, SameOutcome R (k v) (k' v)) :
    SameOutcome R (withOperand r x k) (withOperand r x k') := by
  cases x with
  | none => rfl
  | some v => exact hk v

theorem sameOutcome_settle {R : State → State → Prop} {s s' t t' : State} (hs : s.transport = s'.transport)
    (ht : t.transport = t'.transport) (hR : R t t') : SameOutcome R (settle s t) (settle s' t') := by
  unfold settle
  rw [hs, ht]
  split
  · rfl
  · exact hR

/-- The registers that decide whether and with which operands an operation starts. -/
structure SameOperands (s t : State) : Prop where
  running : s.running = t.running
  bus : s.bus = t.bus
  csLine : s.csLine = t.csLine
  timeout : s.timeout = t.timeout
  addr : s.addr = t.addr
  len : s.len = t.len
  txbuf : s.txbuf = t.txbuf
  readPreWren : s.readPreWren = t.readPreWren
  transport : s.transport = t.transport

theorem sameOutcome_withIdleHandle {R : State → State → Prop} {s t : State} (hs : SameOperands s t)
    {k k' : Handle → Outcome} (hk : ∀ h, SameOutcome R (k h) (k' h)) :
    SameOutcome R (withIdleHandle s k) (withIdleHandle t k') := by
  unfold withIdleHandle withHandle
  rw [hs.running, hs.bus, hs.csLine, hs.timeout]
  split
  · rfl
  · exact sameOutcome_withOperand fun _ => sameOutcome_withOperand fun _ => sameOutcome_withOperand fun _ => hk _

theorem sameOutcome_withAddrLen {R : State → State → Prop} {s t : State} (hs : SameOperands s t)
    {k k' : Word32 → Word32 → Outcome} (hk : ∀ a n, SameOutcome R (k a n) (k' a n)) :
    SameOutcome R (withAddrLen s k) (withAddrLen t k') := by
  unfold withAddrLen withAddr withLen
  rw [hs.addr, hs.len]
  exact sameOutcome_withOperand fun _ => sameOutcome_withOperand fun _ => hk _ _

theorem sameOutcome_withProgramParams {R : State → State → Prop} {s t : State} (hs : SameOperands s t)
    {b b' : Outcome} {g g' : Word32 → Word32 → Outcome} (hb : SameOutcome R b b')
    (hg : ∀ a n, SameOutcome R (g a n) (g' a n)) :
    SameOutcome R (withProgramParams s b g) (withProgramParams t b' g') := by
  refine sameOutcome_withAddrLen hs fun a n => ?_
  split
  · exact hb
  · split
    · exact hb
    · exact hg a n

theorem sameOutcome_withPayload {R : State → State → Prop} {s t : State} (hs : SameOperands s t) {n : Word32}
    {k k' : List Byte → Outcome} (hk : ∀ v, SameOutcome R (k v) (k' v)) :
    SameOutcome R (withPayload s n k) (withPayload t n k') := by
  unfold withPayload
  rw [hs.txbuf]
  exact sameOutcome_withOperand hk

/-- The seven operations in lockstep, from states that have the same operands and are in step once started. -/
theorem Lockstep.exec (L : Lockstep E F) {i : Instr} {s t : State} (hi : writesResult i = true)
    (hs : SameOperands s t) (hst : E (s.begin i) (t.begin i))
    (htr : ∀ {u v}, F i u v → u.transport = v.transport) : SameOutcome (F i) (exec i s) (exec i t) := by
  have settled : ∀ {u v}, F i u v → SameOutcome (F i) (settle s u) (settle t v) :=
    fun hF => sameOutcome_settle hs.transport (htr hF) hF
  cases i with
  | csAssert => cases hi
  | csDeassert => cases hi
  | verifyId => exact sameOutcome_withIdleHandle hs fun h => settled (L.runVerifyId hst h)
  | readStatus => exact sameOutcome_withIdleHandle hs fun h => settled (L.runReadStatus hst h)
  | writeEnable => exact sameOutcome_withIdleHandle hs fun h => settled (L.runWriteEnable hst h)
  | writeDisable => exact sameOutcome_withIdleHandle hs fun h => settled (L.runWriteDisable hst h)
  | chipErase => exact sameOutcome_withIdleHandle hs fun h => settled (L.runChipErase hst h)
  | pageProgram =>
    refine sameOutcome_withIdleHandle hs fun h => sameOutcome_withProgramParams hs ?_ fun a n =>
      sameOutcome_withPayload hs fun v => settled (L.runPageProgram hst h a n v)
    exact L.complete hst .pageProgram .param (by simp) (by simp)
  | readData =>
    exact sameOutcome_withIdleHandle hs fun h => sameOutcome_withAddrLen hs fun a n =>
      settled (L.runReadData hst hs.readPreWren h a n)

end

/-! ### What an earlier operation left -/

/-- `t` is `s` but for the outputs and the scratch of earlier operations; in `t`, `STATUS` holds `y` and `RXBUF` holds
`rb`. -/
def SameButOutcome (y : Option Byte) (rb : Option (List Byte)) (s t : State) : Prop :=
  t = { s with
    result := t.result, status := y, rxbuf := rb, err := t.err, srTmp := t.srTmp, hdr := t.hdr, idTmp := t.idTmp,
    rxTmp := t.rxTmp }

/-- At the end of operation `i` nothing but an output it does not write tells the two runs apart. -/
def SameButUnwritten (y : Option Byte) (rb : Option (List Byte)) (i : Instr) (s t : State) : Prop :=
  t = { s with
    status := if i = .readStatus then s.status else y, rxbuf := if i = .readData then s.rxbuf else rb }

theorem lockstep_outcome (y : Option Byte) (rb : Option (List Byte)) :
    Lockstep (SameButOutcome y rb) (SameButUnwritten y rb) where
  csSet hst h l := by rw [hst]; rfl
  busTx hst h b := by rw [hst]; exact ⟨rfl, rfl⟩
  busRx hst h n := by rw [hst]; exact ⟨rfl, rfl⟩
  srTmp hst x := by rw [hst]; rfl
  idTmp hst x := by rw [hst]; rfl
  hdr hst x := by rw [hst]; rfl
  addr hst x := by rw [hst]; rfl
  complete hst i k hs hd := by
    rw [hst]
    simp only [SameButUnwritten, hs, hd, if_false]
    rfl
  completeStatus hst x k := by rw [hst]; rfl
  completeRxbuf hst x k := by rw [hst]; rfl

/-- Settles O49: the two runs go in lockstep. -/
theorem earlierOutcomesDoNotMatter : Obligations.EarlierOutcomesDoNotMatter := by
  unfold Obligations.EarlierOutcomesDoNotMatter
  intro i s r e x y hd idb rx rb hi
  have hrun := (lockstep_outcome y rb).exec (i := i) (s := s)
    (t := { s with
      result := r, status := y, rxbuf := rb, err := e, srTmp := x, hdr := hd, idTmp := idb, rxTmp := rx })
    hi ⟨rfl, rfl, rfl, rfl, rfl, rfl, rfl, rfl, rfl⟩ rfl (fun hF => by rw [hF])
  cases ho : exec i s with
  | next t =>
    obtain ⟨t', ho', ht⟩ := (ho ▸ hrun).of_next
    exact ho'.trans (congrArg Host.Outcome.next ht)
  | fault f => exact (ho ▸ hrun).of_fault
  | refused q => exact (ho ▸ hrun).of_refused

/-! ### The bus trace -/

/-- `t` is `s` with `p` in front of its trace. -/
def SameButTrace (p : List Event) (s t : State) : Prop := t = { s with trace := p ++ s.trace }

theorem lockstep_trace (p : List Event) : Lockstep (SameButTrace p) (fun _ => SameButTrace p) where
  csSet hst h l := by rw [hst]; simp [SameButTrace, State.csSet]
  busTx hst h b := by rw [hst]; simp [SameButTrace, State.busTx]
  busRx hst h n := by rw [hst]; simp [SameButTrace, State.busRx]
  srTmp hst x := by rw [hst]; rfl
  idTmp hst x := by rw [hst]; rfl
  hdr hst x := by rw [hst]; rfl
  addr hst x := by rw [hst]; rfl
  complete hst i k hs hd := by rw [hst]; rfl
  completeStatus hst x k := by rw [hst]; rfl
  completeRxbuf hst x k := by rw [hst]; rfl

/-- With `p` in front of the trace every operation does the same and leaves `p` in front. -/
theorem exec_sameButTrace (p : List Event) (i : Instr) (s : State) :
    SameOutcome (SameButTrace p) (exec i s) (exec i { s with trace := p ++ s.trace }) := by
  have hs : SameOperands s { s with trace := p ++ s.trace } := ⟨rfl, rfl, rfl, rfl, rfl, rfl, rfl, rfl, rfl⟩
  have hend : ∀ {a b : State}, SameButTrace p a b → SameButTrace p a.toIdle b.toIdle :=
    fun hab => by rw [hab]; rfl
  cases hi : writesResult i with
  | true => exact (lockstep_trace p).exec hi hs rfl (fun hF => by rw [hF])
  | false =>
    cases i with
    | csAssert =>
      exact sameOutcome_withIdleHandle hs fun h => hend ((lockstep_trace p).csSet rfl h .low)
    | csDeassert =>
      exact sameOutcome_withIdleHandle hs fun h => hend ((lockstep_trace p).csSet rfl h .high)
    | _ => cases hi

/-- Settles O50: either trace stands in front of the events of the run from an empty one. -/
theorem traceIsNeverRead : Obligations.TraceIsNeverRead := by
  unfold Obligations.TraceIsNeverRead
  intro i s tr
  have hs := exec_sameButTrace s.trace i { s with trace := [] }
  have htr := exec_sameButTrace tr i { s with trace := [] }
  simp only [List.append_nil] at hs htr
  cases hu : exec i { s with trace := [] } with
  | next u =>
    rw [hu] at hs htr
    obtain ⟨t, ht, hut⟩ := hs.of_next
    obtain ⟨t', ht', hut'⟩ := htr.of_next
    have hnew : newEvents s t = u.trace := by rw [hut]; simp [newEvents]
    have htt' : t' = { t with trace := tr ++ newEvents s t } := by rw [hnew, hut, hut']
    rw [ht, ht']
    exact congrArg Host.Outcome.next htt'
  | fault f =>
    rw [hu] at hs htr
    rw [hs.of_fault, htr.of_fault]
  | refused r =>
    rw [hu] at hs htr
    rw [hs.of_refused, htr.of_refused]

end Sys2Proof.Machine

/-! ## The status byte, and how every operation ends -/

namespace Sys2Proof.Machine

open Sys2Proof

/-! ### The status byte (R60) -/

@[simp] theorem statusWip_statusByte (u : Byte) (wel wip : Bool) : statusWip (statusByte u wel wip) = wip := by
  rw [statusWip, statusByte, BitVec.getLsbD_append]
  simp

@[simp] theorem statusWel_statusByte (u : Byte) (wel wip : Bool) : statusWel (statusByte u wel wip) = wel := by
  rw [statusWel, statusByte, BitVec.getLsbD_append, BitVec.getLsbD_append]
  simp

/-- Settles O7, bit by bit through the two concatenations of `statusByte`. -/
theorem statusByteBits : Obligations.StatusByteBits := by
  unfold Obligations.StatusByteBits
  intro u wel wip
  refine ⟨statusWip_statusByte u wel wip, statusWel_statusByte u wel wip, BitVec.eq_of_getLsbD_eq fun j hj => ?_⟩
  rw [statusByte, BitVec.getLsbD_extractLsb', BitVec.getLsbD_append, BitVec.getLsbD_append]
  simp [hj, show ¬ 2 + j < 1 by omega]

/-! ### Chip select is paired (R47) -/

/-- What closes its windows can be followed by anything that starts outside of one. -/
theorem windowsFrom_append {inside : Bool} {xs : List Event} (h : windowsFrom inside xs = true) (ys : List Event) :
    windowsFrom inside (xs ++ ys) = csPaired ys := by
  induction xs generalizing inside with
  | nil =>
    obtain rfl : inside = false := by simpa [windowsFrom] using h
    rfl
  | cons e xs ih =>
    rcases e with ⟨line, _ | _⟩ | _ | _ <;> simp only [windowsFrom, Bool.and_eq_true] at h <;>
      obtain ⟨hin, hxs⟩ := h
    · simp [windowsFrom, hin, ih hxs]
    · simp [windowsFrom, hin, ih hxs]
    · subst hin
      simp [windowsFrom, ih hxs]
    · subst hin
      simp [windowsFrom, ih hxs]

theorem csPaired_append {xs ys : List Event} (hx : csPaired xs = true) (hy : csPaired ys = true) :
    csPaired (xs ++ ys) = true :=
  (windowsFrom_append hx ys).trans hy

theorem csPaired_latchEvents (h : Handle) (cmd : Header) (b : Byte) : csPaired (latchEvents h cmd b) = true := rfl

theorem csPaired_of_mem_latchFailures {h : Handle} {cmd : Header} {tr : List Event}
    (htr : tr ∈ latchFailures h cmd) : csPaired tr = true := by
  simp only [latchFailures, List.mem_cons, List.not_mem_nil, or_false] at htr
  rcases htr with rfl | rfl | rfl <;> rfl

/-- How the seven operations end: `PAGE_PROGRAM` in `PARAM` before its first event, or on the bus, with paired
windows and a result kind of its own. -/
theorem exec_ends_paired {i : Instr} {s t : State} (hi : writesResult i = true) (he : exec i s = .next t) :
    (i = .pageProgram ∧ t = (s.begin i).raise .param) ∨
      ∃ tr k, EndedWith i s t tr k ∧ csPaired tr = true ∧ k ∈ resultKinds i s.readPreWren := by
  cases i with
  | csAssert => cases hi
  | csDeassert => cases hi
  | verifyId =>
    obtain ⟨h, -, -, -, -, hw | hw | ⟨b, -, hw⟩⟩ := execVerifyId_cases he
    · exact .inr ⟨_, _, hw, rfl, by simp [resultKinds]⟩
    · exact .inr ⟨_, _, hw, rfl, by simp [resultKinds]⟩
    · exact .inr ⟨_, _, hw, rfl, by unfold idVerdict; split <;> simp [resultKinds]⟩
  | readStatus =>
    obtain ⟨h, -, -, -, ⟨-, hw⟩ | ⟨-, hw⟩ | ⟨b, -, hw⟩⟩ := execReadStatus_cases he <;>
      exact .inr ⟨_, _, hw, rfl, by simp [resultKinds]⟩
  | writeEnable =>
    obtain ⟨h, -, -, -, -, ⟨tr, hm, hw⟩ | ⟨b, hw⟩⟩ := execWriteEnable_cases he
    · exact .inr ⟨_, _, hw, csPaired_of_mem_latchFailures hm, by simp [resultKinds]⟩
    · refine .inr ⟨_, _, hw, csPaired_latchEvents h _ b, ?_⟩
      rcases latchVerdict_cases true b with ⟨hv, -⟩ | ⟨hv, -⟩ <;> simp [hv, resultKinds]
  | writeDisable =>
    obtain ⟨h, -, -, -, -, ⟨tr, hm, hw⟩ | ⟨b, hw⟩⟩ := execWriteDisable_cases he
    · exact .inr ⟨_, _, hw, csPaired_of_mem_latchFailures hm, by simp [resultKinds]⟩
    · refine .inr ⟨_, _, hw, csPaired_latchEvents h _ b, ?_⟩
      rcases latchVerdict_cases false b with ⟨hv, -⟩ | ⟨hv, -⟩ <;> simp [hv, resultKinds]
  | chipErase =>
    obtain ⟨h, -, -, -, -, ⟨tr, hm, hw⟩ | ⟨b, -, hw⟩ | ⟨b, ok, -, hw⟩⟩ := execChipErase_cases he
    · exact .inr ⟨_, _, hw, csPaired_of_mem_latchFailures hm, by simp [resultKinds]⟩
    · exact .inr ⟨_, _, hw, csPaired_latchEvents h _ b, by simp [resultKinds]⟩
    · exact .inr ⟨_, _, hw, csPaired_append (csPaired_latchEvents h _ b) rfl, by cases ok <;> simp [resultKinds]⟩
  | pageProgram =>
    obtain ⟨h, a, n, -, -, -, -, -, ⟨-, rfl⟩ |
      ⟨v, -, -, -, ⟨tr, hm, -, hw⟩ | ⟨b, -, -, hw⟩ | ⟨b, -, -, hw⟩ | ⟨b, ok, -, -, hw⟩⟩⟩ := execPageProgram_cases he
    · exact .inl ⟨rfl, rfl⟩
    · exact .inr ⟨_, _, hw, csPaired_of_mem_latchFailures hm, by simp [resultKinds]⟩
    · exact .inr ⟨_, _, hw, csPaired_latchEvents h _ b, by simp [resultKinds]⟩
    · exact .inr ⟨_, _, hw, csPaired_append (csPaired_latchEvents h _ b) rfl, by simp [resultKinds]⟩
    · exact .inr ⟨_, _, hw, csPaired_append (csPaired_latchEvents h _ b) rfl, by cases ok <;> simp [resultKinds]⟩
  | readData =>
    obtain ⟨h, a, n, -, -, -, -, -, ⟨hp, -, tr, hm, hw⟩ | ⟨hp, -, b, -, hw⟩ | ⟨pre, hpre, hc⟩⟩ := execReadData_cases he
    · exact .inr ⟨_, _, hw, csPaired_of_mem_latchFailures hm, by simp [resultKinds, hp]⟩
    · exact .inr ⟨_, _, hw, csPaired_latchEvents h _ b, by simp [resultKinds, hp]⟩
    · have hpaired : csPaired pre = true := by
        rcases hpre with ⟨-, b, -, rfl⟩ | ⟨-, rfl⟩
        · exact csPaired_latchEvents h _ b
        · rfl
      have hkind : ∀ k, k = ResultKind.ok ∨ k = .comm → k ∈ resultKinds .readData s.readPreWren := by
        rintro k (rfl | rfl) <;> cases s.readPreWren <;> simp [resultKinds]
      rcases hc with ⟨-, hw⟩ | ⟨-, hw⟩ | ⟨b, -, -, hw⟩
      · exact .inr ⟨_, _, hw, csPaired_append hpaired rfl, hkind _ (.inr rfl)⟩
      · exact .inr ⟨_, _, hw, csPaired_append hpaired rfl, hkind _ (.inr rfl)⟩
      · exact .inr ⟨_, _, hw, csPaired_append hpaired rfl, hkind _ (.inl rfl)⟩

theorem EndedWith.csN {i : Instr} {s t : State} {tr : List Event} {k : ResultKind} (h : EndedWith i s t tr k) :
    t.csN = .high := by
  rw [h]

/-- Settles O42: a rejected `PAGE_PROGRAM` has no event, and every other path has its windows paired. -/
theorem chipSelectPairedOnEveryPath : Obligations.ChipSelectPairedOnEveryPath := by
  unfold Obligations.ChipSelectPairedOnEveryPath
  intro i s t hi he
  rcases exec_ends_paired hi he with ⟨-, rfl⟩ | ⟨tr, k, hw, hpaired, -⟩
  · have hnone : newEvents s ((s.begin i).raise .param) = [] := by simp [newEvents]
    rw [hnone]
    exact ⟨rfl, fun hne => absurd rfl hne⟩
  · rw [hw.newEvents]
    exact ⟨hpaired, fun _ => hw.csN⟩

/-! ### Every operation ends (R150) -/

theorem addrLen_of_operandsHold {i : Instr} {s : State} (hi : i = .pageProgram ∨ i = .readData)
    (ho : s.operandsHold i = true) : ∃ a n, s.addr = some a ∧ s.len = some n := by
  rcases hi with rfl | rfl
  · simp only [State.operandsHold] at ho
    split at ho
    · exact ⟨_, _, ‹_›, ‹_›⟩
    · cases ho
  · simpa [State.operandsHold, Option.isSome_iff_exists] using ho

theorem withPayload_eq {s : State} {n : Word32} {v : List Byte} (hv : cellSlice s.txbuf 0 n.toNat = some v)
    (k : List Byte → Outcome) : withPayload s n k = k v := by
  rw [withPayload, hv, withOperand_some]

/-- With its operands in place and every request answered, an operation answers a next state. -/
theorem exec_answers {i : Instr} {s : State} {h : Handle} (hr : s.Ready h) (ho : s.operandsHold i = true)
    (ht : s.transportAnswers = true) : ∃ t, exec i s = .next t := by
  have hrun := withIdleHandle_of_ready hr
  cases i with
  | csAssert => exact ⟨_, hrun _⟩
  | csDeassert => exact ⟨_, hrun _⟩
  | pageProgram =>
    obtain ⟨a, n, ha, hn⟩ := addrLen_of_operandsHold (.inl rfl) ho
    by_cases hb : BadParams a n
    · exact ⟨_, (hrun _).trans (withProgramParams_bad ha hn hb _ _)⟩
    · obtain ⟨hl, hal⟩ : lengthError n = false ∧ alignError a n = false := by simpa [BadParams] using hb
      obtain ⟨v, hv⟩ : ∃ v, cellSlice s.txbuf 0 n.toNat = some v := by
        simpa [State.operandsHold, ha, hn, hl, hal, Option.isSome_iff_exists] using ho
      exact ⟨_, (hrun _).trans ((withProgramParams_good ha hn hl hal _ _).trans
        ((withPayload_eq hv _).trans (settle_of_answers ht _)))⟩
  | readData =>
    obtain ⟨a, n, ha, hn⟩ := addrLen_of_operandsHold (.inr rfl) ho
    exact ⟨_, (hrun _).trans ((withAddrLen_eq ha hn _).trans (settle_of_answers ht _))⟩
  | _ => exact ⟨_, (hrun _).trans (settle_of_answers ht _)⟩

/-- Settles O34: an operation that answers is back at idle, in one of its own ends. -/
theorem operationsEndWheneverAnswered : Obligations.OperationsEndWheneverAnswered := by
  unfold Obligations.OperationsEndWheneverAnswered
  intro i s h hr ho ht
  obtain ⟨t, he⟩ := exec_answers hr ho ht
  obtain ⟨-, tr, -, hend, -, hk⟩ := exec_ends he
  refine ⟨t, he, by rw [hend], by rw [hend], fun hi => ?_, hk.result, fun hi => ?_⟩ <;>
    rcases exec_ends_paired hi he with ⟨rfl, rfl⟩ | ⟨tr, k, hw, -, hkind⟩
  · exact .inr rfl
  · exact .inl hw.csN
  · exact ⟨.param, by simp [resultKinds], rfl⟩
  · exact ⟨k, hkind, hw.result⟩


/-! ### The top byte of `ADDR` (R54, R76) -/

/-- `t` is `s` but for `ADDR`. -/
def SameButAddr (s t : State) : Prop := t = { s with addr := t.addr }

theorem SameButAddr.trans {s t u : State} (h : SameButAddr s t) (h' : SameButAddr t u) : SameButAddr s u := by
  unfold SameButAddr at h h' ⊢
  rw [h', h]

theorem lockstep_addr : Lockstep SameButAddr (fun _ => SameButAddr) where
  csSet hst h l := by rw [hst]; rfl
  busTx hst h b := by rw [hst]; exact ⟨rfl, rfl⟩
  busRx hst h n := by rw [hst]; exact ⟨rfl, rfl⟩
  srTmp hst x := by rw [hst]; rfl
  idTmp hst x := by rw [hst]; rfl
  hdr hst x := by rw [hst]; rfl
  addr hst x := by rw [hst]; rfl
  complete hst i k hs hd := by rw [hst]; rfl
  completeStatus hst x k := by rw [hst]; rfl
  completeRxbuf hst x k := by rw [hst]; rfl

/-- The alignment check looks at the low byte alone (R122), which the frame carries. -/
theorem alignError_congr {a a' : Word32} (h : addr24 a = addr24 a') (n : Word32) :
    alignError a n = alignError a' n := by
  have hlow : ∀ x : Word32, x.extractLsb' 0 8 = (addr24 x).extractLsb' 0 8 := fun x => by
    apply BitVec.eq_of_toNat_eq
    simp [addr24]
  unfold alignError
  rw [hlow a, hlow a', h]

/-- `PAGE_PROGRAM` sends 24 address bits; only the advance of `ADDR` sees the others (R125). -/
theorem runPageProgram_sameButAddr {a a' : Word32} (h : addr24 a = addr24 a') (hd : Handle) (n : Word32)
    (v : List Byte) (s : State) : SameButAddr (runPageProgram hd a n v s) (runPageProgram hd a' n v s) := by
  unfold runPageProgram
  simp only [h]
  split
  · split <;> rfl
  · rfl

/-- `READ_DATA` sends 24 address bits and uses no other. -/
theorem runReadData_congr {a a' : Word32} (h : addr24 a = addr24 a') (hd : Handle) (n : Word32) (s : State) :
    runReadData hd a n s = runReadData hd a' n s := by
  simp only [runReadData, runReadFrame, h]

/-- `ADDR` takes no part in whether an operation starts, and a settled end does not depend on it. -/
theorem sameOutcome_withIdleHandle_addr (s : State) (x y : Option Word32) {k k' : Handle → Outcome}
    (hk : ∀ h, SameOutcome SameButAddr (k h) (k' h)) :
    SameOutcome SameButAddr (withIdleHandle { s with addr := x } k) (withIdleHandle { s with addr := y } k') :=
  sameOutcome_withIdleHandle (s := s) (t := s) ⟨rfl, rfl, rfl, rfl, rfl, rfl, rfl, rfl, rfl⟩ hk

theorem exec_sameButAddr {a a' : Word32} (h24 : addr24 a = addr24 a') (i : Instr) (s : State) :
    SameOutcome SameButAddr (exec i { s with addr := some a }) (exec i { s with addr := some a' }) := by
  have started : SameButAddr ({ s with addr := some a }.begin i) ({ s with addr := some a' }.begin i) := rfl
  have settled : ∀ {u v : State}, SameButAddr u v →
      SameOutcome SameButAddr (settle { s with addr := some a } u) (settle { s with addr := some a' } v) :=
    fun huv => sameOutcome_settle rfl (by rw [huv]) huv
  have toIdle : ∀ {u v : State}, SameButAddr u v → SameButAddr u.toIdle v.toIdle := fun huv => by rw [huv]; rfl
  cases i with
  | csAssert =>
    exact sameOutcome_withIdleHandle_addr s _ _ fun h => toIdle (lockstep_addr.csSet started h .low)
  | csDeassert =>
    exact sameOutcome_withIdleHandle_addr s _ _ fun h => toIdle (lockstep_addr.csSet started h .high)
  | verifyId => exact sameOutcome_withIdleHandle_addr s _ _ fun h => settled (lockstep_addr.runVerifyId started h)
  | readStatus => exact sameOutcome_withIdleHandle_addr s _ _ fun h => settled (lockstep_addr.runReadStatus started h)
  | writeEnable => exact sameOutcome_withIdleHandle_addr s _ _ fun h => settled (lockstep_addr.runWriteEnable started h)
  | writeDisable =>
    exact sameOutcome_withIdleHandle_addr s _ _ fun h => settled (lockstep_addr.runWriteDisable started h)
  | chipErase => exact sameOutcome_withIdleHandle_addr s _ _ fun h => settled (lockstep_addr.runChipErase started h)
  | pageProgram =>
    refine sameOutcome_withIdleHandle_addr s _ _ fun h => sameOutcome_withOperand fun n => ?_
    simp only [alignError_congr h24]
    split
    · exact lockstep_addr.complete started .pageProgram .param (by simp) (by simp)
    · split
      · exact lockstep_addr.complete started .pageProgram .param (by simp) (by simp)
      · exact sameOutcome_withOperand fun v => settled
          ((lockstep_addr.runPageProgram started h a n v).trans (runPageProgram_sameButAddr h24 h n v _))
  | readData =>
    refine sameOutcome_withIdleHandle_addr s _ _ fun h => sameOutcome_withOperand fun n => settled ?_
    rw [runReadData_congr h24]
    exact lockstep_addr.runReadData started rfl h a' n

/-- Settles O48: the two runs differ in `ADDR` alone. -/
theorem topAddressByteIsNeverSent : Obligations.TopAddressByteIsNeverSent := by
  unfold Obligations.TopAddressByteIsNeverSent
  intro i s t a a' h24 he
  obtain ⟨t', he', ht⟩ := (he ▸ exec_sameButAddr h24 i s).of_next
  exact ⟨t', he', by rw [ht], by rw [ht], by rw [ht]⟩

end Sys2Proof.Machine

/-! ## The latch environment in the transport's place (R60 to R66) -/

namespace Sys2Proof.Machine

open Sys2Proof

/-! ### One moment of the environment, and what it sees -/

@[simp] theorem LatchEnv.see_window (w : WindowItem) (e : LatchEnv) : (e.see w).window = e.window ++ [w] := rfl
@[simp] theorem LatchEnv.see_noEdge (w : WindowItem) (e : LatchEnv) : (e.see w).noEdge = e.noEdge := rfl
@[simp] theorem LatchEnv.freshWindow_window (e : LatchEnv) : e.freshWindow.window = [] := rfl
@[simp] theorem LatchEnv.freshWindow_noEdge (e : LatchEnv) : e.freshWindow.noEdge = false := rfl

@[simp] theorem LatchEnv.breathe_window (e : LatchEnv) (c : Nat) : (e.breathe c).1.window = e.window := by
  rcases e.breathe_cases c with h | h | h <;> simp [h, LatchEnv.complete]

@[simp] theorem LatchEnv.breathe_noEdge (e : LatchEnv) (c : Nat) : (e.breathe c).1.noEdge = e.noEdge := by
  rcases e.breathe_cases c with h | h | h <;> simp [h, LatchEnv.complete]

/-- A moment of the environment uses up one of the choices within which the chip's operation completes (R63, R105). -/
theorem LatchEnv.completesWithin_breathe {e : LatchEnv} {k : Nat} (h : e.completesWithin (k + 1) = true) (c : Nat) :
    (e.breathe c).1.completesWithin k = true := by
  cases hw : e.wip with
  | false => simp [LatchEnv.completesWithin, hw]
  | true =>
    cases hm : e.moments with
    | nil => simp [LatchEnv.completesWithin, hw, hm] at h
    | cons m rest =>
      cases m with
      | true => simp [LatchEnv.breathe, LatchEnv.completesWithin, LatchEnv.complete, hw, hm]
      | false => simpa [LatchEnv.breathe, LatchEnv.completesWithin, hw, hm] using h

/-- What `n` moments make of `e`, whatever its window, as `e'` shows it: a completion is `n` choices nearer, and an idle
chip keeps its bits. -/
structure LatchEnv.After (n : Nat) (e e' : LatchEnv) : Prop where
  completes : ∀ k, e.completesWithin (k + n) = true → e'.completesWithin k = true
  idle : e.wip = false → e'.wip = false ∧ e'.wel = e.wel

theorem LatchEnv.After.trans {m n : Nat} {e e' e'' : LatchEnv} (h : LatchEnv.After m e e')
    (h' : LatchEnv.After n e' e'') : LatchEnv.After (m + n) e e'' where
  completes k hk := h'.completes k (h.completes (k + n) (by rwa [Nat.add_assoc, Nat.add_comm n m]))
  idle hw := by
    obtain ⟨hwip, hwel⟩ := h.idle hw
    obtain ⟨hwip', hwel'⟩ := h'.idle hwip
    exact ⟨hwip', hwel'.trans hwel⟩

/-- One moment, and then any change of the window or the supply. -/
theorem LatchEnv.after_breathe {e e' : LatchEnv} {c : Nat} (hwel : e'.wel = (e.breathe c).1.wel)
    (hwip : e'.wip = (e.breathe c).1.wip) (hm : e'.moments = (e.breathe c).1.moments) : LatchEnv.After 1 e e' where
  completes k hk := by
    have hb := LatchEnv.completesWithin_breathe hk c
    simpa only [LatchEnv.completesWithin, hwip, hm] using hb
  idle hw := by
    rw [hwel, hwip, LatchEnv.breathe_idle hw]
    exact ⟨hw, rfl⟩

/-! ### What the closing of a window does (R60 to R64) -/

/-- The window of `e` was opened with a falling edge, no part of it came while `WIP = 1`, and it has carried `w`. -/
structure LatchEnv.Carried (e : LatchEnv) (w : List WindowItem) : Prop where
  noEdge : e.noEdge = false
  clouded : e.clouded = false
  wip : e.wip = false
  window : e.window = w

/-- The closing of a window that carried `cmd` to an idle chip leaves `WEL` at `want` (R61, R62). -/
def SetsLatch (cmd : Header) (want : Bool) : Prop :=
  ∀ (e : LatchEnv) (c : Nat), e.Carried [.tx cmd.bytes] → e.close c = { e.freshWindow with wel := want }

theorem setsLatch_writeEnable : SetsLatch .writeEnable true := fun e c h => by
  simp [LatchEnv.close, h.noEdge, h.clouded, h.wip, h.window]

theorem setsLatch_writeDisable : SetsLatch .writeDisable false := fun e c h => by
  simp [LatchEnv.close, h.noEdge, h.clouded, h.wip, h.window, Header.bytes, Header.opcode]

theorem LatchEnv.close_chipErase {e : LatchEnv} (h : e.Carried [.tx (Header.bytes .chipErase)]) (hwel : e.wel = true)
    (c : Nat) : e.close c = { e.freshWindow with wip := true } := by
  simp [LatchEnv.close, h.noEdge, h.clouded, h.wip, h.window, hwel, startsOperation, Header.bytes, Header.opcode]

/-- The status read's window leaves the bits alone, whatever `WIP` was (R60). -/
theorem LatchEnv.close_readStatus {e : LatchEnv} (hn : e.noEdge = false)
    (hw : e.window = [.tx (Header.bytes .readStatus), .rx 1]) (c : Nat) : e.close c = e.freshWindow := by
  simp [LatchEnv.close, harmlessWindow, startsOperation, hn, hw]

/-- The answer to a status read: the bits as they are, below six bits of the environment's own (R60). -/
theorem LatchEnv.answer_status {e : LatchEnv} (hn : e.noEdge = false)
    (hw : e.window = [.tx (Header.bytes .readStatus)]) (t : Transport) :
    ∃ u sup d, e.answer 1 t = (some [statusByte u e.wel e.wip],
      { t with draws := d, env := some { e.see (.rx 1) with supply := sup } }) := by
  obtain ⟨u, hu⟩ := List.length_eq_one_iff.1 (fitBytes_length 1 t.draws e.supply)
  refine ⟨u, e.supply.drop 1, t.draws + (1 - e.supply.length), ?_⟩
  simp [LatchEnv.answer, Transport.drawBytes, LatchEnv.see, hn, hw, hu]

/-! ### The primitives -/

/-- The latch environment `e` stands in the transport's place; `sc` is the script behind it. -/
structure State.Faces (s : State) (e : LatchEnv) (sc : List Answer) : Prop where
  env : s.transport.env = some e
  script : s.transport.script = sc

section
variable {s : State} {e : LatchEnv} {sc : List Answer}

theorem State.Faces.csSet_low (hs : s.Faces e sc) (hhigh : s.csN = .high) (h : Handle) :
    ∃ c, (s.csSet h .low).Faces (e.breathe c).1.freshWindow sc :=
  ⟨s.transport.draws, by simp [Transport.select, hs.env, hhigh, LatchEnv.freshWindow], by simp [hs.script]⟩

theorem State.Faces.csSet_high (hs : s.Faces e sc) (h : Handle) :
    ∃ c d, (s.csSet h .high).Faces ((e.breathe c).1.close d) sc :=
  ⟨s.transport.draws, (e.breathe s.transport.draws).2, by simp [Transport.select, hs.env], by simp [hs.script]⟩

theorem State.Faces.busTx (hs : s.Faces e sc) (h : Handle) (b : List Byte) :
    (s.busTx h b).1 = true ∧ ∃ c, (s.busTx h b).2.Faces ((e.breathe c).1.see (.tx b)) sc := by
  refine ⟨by simp [Transport.tx, hs.env], s.transport.draws, ?_, ?_⟩
  · simp [Transport.tx, hs.env]
  · simp [Transport.tx, hs.env, hs.script]

/-- The byte of a status read shows the bits as they are when it is sent (R60). -/
theorem State.Faces.busRx_status (hs : s.Faces e sc) (hn : e.noEdge = false)
    (hw : e.window = [.tx (Header.bytes .readStatus)]) (h : Handle) :
    ∃ (b : Byte) (e' : LatchEnv), (s.busRx h 1).1 = some [b] ∧ statusWip b = e'.wip ∧ statusWel b = e'.wel ∧
      LatchEnv.After 1 e e' ∧ e'.noEdge = false ∧ e'.window = [.tx (Header.bytes .readStatus), .rx 1] ∧
      (s.busRx h 1).2.Faces e' sc := by
  obtain ⟨u, sup, d, ha⟩ := LatchEnv.answer_status (e := (e.breathe s.transport.draws).1) (by simpa using hn)
    (by simpa using hw) { s.transport with draws := (e.breathe s.transport.draws).2 }
  have hrx : s.transport.rx 1 = (e.breathe s.transport.draws).1.answer 1
      { s.transport with draws := (e.breathe s.transport.draws).2 } := by simp [Transport.rx, hs.env]
  rw [ha] at hrx
  refine ⟨statusByte u (e.breathe s.transport.draws).1.wel (e.breathe s.transport.draws).1.wip,
    { (e.breathe s.transport.draws).1.see (.rx 1) with supply := sup }, by rw [State.busRx_answer, hrx],
    statusWip_statusByte _ _ _, statusWel_statusByte _ _ _, LatchEnv.after_breathe rfl rfl rfl, ?_, ?_, ?_, ?_⟩
  · simpa using hn
  · simp [hw]
  · simp [hrx]
  · simp [hrx, hs.script]

/-- The expected pair answers an identity read that came while `WIP = 0` (R65). -/
theorem State.Faces.busRx_readId (hs : s.Faces e sc) (hc : e.Carried [.tx (Header.bytes .readId)]) (h : Handle) :
    (s.busRx h 2).1 = some expectedId ∧ (s.busRx h 2).2.Faces (e.see (.rx 2)) sc := by
  have hrx : s.transport.rx 2 = (some expectedId, { s.transport with env := some (e.see (.rx 2)) }) := by
    simp [Transport.rx, hs.env, LatchEnv.answer, LatchEnv.see, hc.wip, hc.clouded, hc.window, hc.noEdge]
  exact ⟨by simp [hrx], by simp [hrx], by simp [hrx, hs.script]⟩

/-! ### The frames -/

/-- The header of a frame sent to an idle chip is all its window has carried. -/
theorem State.Faces.header (hs : s.Faces e sc) (hhigh : s.csN = .high) (hw : e.wip = false) (h : Handle)
    (b : List Byte) : ((s.csSet h .low).busTx h b).1 = true ∧
      ∃ e' : LatchEnv, e'.Carried [.tx b] ∧ e'.wel = e.wel ∧ ((s.csSet h .low).busTx h b).2.Faces e' sc := by
  obtain ⟨c, hlow⟩ := hs.csSet_low hhigh h
  rw [LatchEnv.breathe_idle hw] at hlow
  obtain ⟨htx, d, htx'⟩ := hlow.busTx h b
  rw [LatchEnv.breathe_idle (show e.freshWindow.wip = false from hw)] at htx'
  exact ⟨htx, e.freshWindow.see (.tx b), ⟨rfl, by simp [LatchEnv.see, LatchEnv.freshWindow, hw], hw, rfl⟩, rfl, htx'⟩

/-- A command frame sent to an idle chip: the window that carried it is closed. -/
theorem State.Faces.window_busTx (hs : s.Faces e sc) (hhigh : s.csN = .high) (hw : e.wip = false) (h : Handle)
    (b : List Byte) : (window h (State.busTx h b) s).1 = true ∧
      ∃ (e' : LatchEnv) (c : Nat), e'.Carried [.tx b] ∧ e'.wel = e.wel ∧
        (window h (State.busTx h b) s).2.Faces (e'.close c) sc := by
  obtain ⟨htx, e', hc, hwel, hf⟩ := hs.header hhigh hw h b
  obtain ⟨c, d, hclosed⟩ := hf.csSet_high h
  rw [LatchEnv.breathe_idle hc.wip] at hclosed
  exact ⟨htx, e', d, hc, hwel, hclosed⟩

/-- A frame whose header went out goes on with its receive. -/
theorem window_sendReceive_of_tx {h : Handle} {hdr : List Byte} {s : State}
    (ht : ((s.csSet h .low).busTx h hdr).1 = true) (n : Nat) :
    window h (sendReceive h hdr n) s = ((((s.csSet h .low).busTx h hdr).2.busRx h n).1,
      (((s.csSet h .low).busTx h hdr).2.busRx h n).2.csSet h .high) := by
  simp only [window, sendReceive, ht, if_true]

/-- The status window (R102) has four moments, one before each primitive; the byte shows the bits after the third. -/
theorem State.Faces.readStatusSeq (hs : s.Faces e sc) (hhigh : s.csN = .high) (h : Handle) :
    ∃ (b : Byte) (e₃ e₄ : LatchEnv), (readStatusSeq h s).1 = some b ∧ statusWip b = e₃.wip ∧ statusWel b = e₃.wel ∧
      LatchEnv.After 3 e e₃ ∧ LatchEnv.After 1 e₃ e₄ ∧ (readStatusSeq h s).2.Faces e₄ sc := by
  obtain ⟨c₁, hlow⟩ := hs.csSet_low hhigh h
  obtain ⟨htx, c₂, hsent⟩ := hlow.busTx h (Header.bytes .readStatus)
  obtain ⟨b, e₃, hrx, hwip, hwel, ha₃, hn, hw, hgot⟩ := hsent.busRx_status (by simp) (by simp) h
  obtain ⟨c₄, d, hclosed⟩ := hgot.csSet_high h
  rw [LatchEnv.close_readStatus (by simpa using hn) (by simpa using hw)] at hclosed
  have ha₁ : LatchEnv.After 1 e (e.breathe c₁).1.freshWindow := LatchEnv.after_breathe rfl rfl rfl
  have ha₂ : LatchEnv.After 2 e (((e.breathe c₁).1.freshWindow.breathe c₂).1.see (.tx (Header.bytes .readStatus))) :=
    ha₁.trans (n := 1) (LatchEnv.after_breathe rfl rfl rfl)
  refine ⟨b, e₃, (e₃.breathe c₄).1.freshWindow, ?_, hwip, hwel, ha₂.trans (n := 1) ha₃,
    LatchEnv.after_breathe rfl rfl rfl, ?_⟩
  · simp only [Machine.readStatusSeq, window_sendReceive_of_tx htx, hrx]
    rfl
  · simpa only [Machine.readStatusSeq, window_sendReceive_of_tx htx] using hclosed

/-- The latch test of an idle chip (R109): a command whose window sets `WEL` to `want` is verified. -/
theorem State.Faces.latchSeq (hs : s.Faces e sc) (hhigh : s.csN = .high) (hw : e.wip = false) {cmd : Header}
    {want : Bool} (hcmd : SetsLatch cmd want) (h : Handle) :
    (latchSeq h cmd want s).1 = .ok ∧ ∃ e' : LatchEnv, e'.wel = want ∧ e'.wip = false ∧
      (latchSeq h cmd want s).2.Faces e' sc := by
  obtain ⟨htx, e', c, hc, -, hsent⟩ := hs.window_busTx hhigh hw h cmd.bytes
  rw [hcmd e' c hc] at hsent
  obtain ⟨b, e₃, e₄, hb, -, hwel, ha₃, ha₄, hread⟩ := hsent.readStatusSeq rfl h
  obtain ⟨hwip₃, hwel₃⟩ := ha₃.idle hc.wip
  obtain ⟨hwip₄, hwel₄⟩ := ha₄.idle hwip₃
  have hverdict : latchVerdict want b = .ok := by
    unfold latchVerdict
    rw [hwel, hwel₃, if_pos rfl]
  simp only [Machine.latchSeq, htx, hb, if_true]
  exact ⟨hverdict, e₄, hwel₄.trans hwel₃, hwip₄, hread.env, hread.script⟩

/-- An identity frame sent to an idle chip brings the expected pair (R65). -/
theorem State.Faces.window_readId (hs : s.Faces e sc) (hhigh : s.csN = .high) (hw : e.wip = false) (h : Handle) :
    (window h (sendReceive h (Header.bytes .readId) 2) s).1 = some expectedId ∧
      ∃ e', (window h (sendReceive h (Header.bytes .readId) 2) s).2.Faces e' sc := by
  obtain ⟨htx, e', hc, -, hsent⟩ := hs.header hhigh hw h (Header.bytes .readId)
  obtain ⟨hrx, hgot⟩ := hsent.busRx_readId hc h
  obtain ⟨c, d, hclosed⟩ := hgot.csSet_high h
  rw [window_sendReceive_of_tx htx]
  exact ⟨hrx, _, hclosed⟩

end

/-! ### The operations -/

/-- An operation that has used no answer of the script settles. -/
theorem settle_of_script {s t : State} (h : t.transport.script = s.transport.script) : settle s t = .next t := by
  simp [settle, Transport.fellSilent, Transport.silences, h]

/-- `WRITE_ENABLE` and `WRITE_DISABLE` alike, with an idle chip. -/
theorem latchOp_of_faces {i : Instr} {s : State} {e : LatchEnv} (he : s.transport.env = some e) (hhigh : s.csN = .high)
    (hw : e.wip = false) {cmd : Header} {want : Bool} (hcmd : SetsLatch cmd want) (h : Handle) {t : State}
    (ht : t = (latchSeq h cmd want (s.begin i)).2.complete (latchSeq h cmd want (s.begin i)).1) :
    settle s t = .next t ∧ t.result = some .ok ∧ ∃ e', t.transport.env = some e' ∧ e'.wel = want ∧ e'.wip = false := by
  obtain ⟨hok, e', hwel, hwip, hf⟩ := State.Faces.latchSeq (s := s.begin i) ⟨he, rfl⟩ hhigh hw hcmd h
  subst ht
  exact ⟨settle_of_script hf.script, congrArg some hok, e', hf.env, hwel, hwip⟩

/-- Settles O58: the window of the command sets the latch, and the status byte shows it. -/
theorem latchEnvObeysTheLatchCommands : Obligations.LatchEnvObeysTheLatchCommands := by
  unfold Obligations.LatchEnvObeysTheLatchCommands
  intro s h e hr hhigh he hw
  constructor
  · obtain ⟨hset, hok, e', henv, hbits⟩ := latchOp_of_faces (i := .writeEnable) he hhigh hw setsLatch_writeEnable h rfl
    exact ⟨_, e', (withIdleHandle_of_ready hr _).trans hset, hok, henv, hbits⟩
  · obtain ⟨hset, hok, e', henv, hbits⟩ := latchOp_of_faces (i := .writeDisable) he hhigh hw setsLatch_writeDisable h rfl
    exact ⟨_, e', (withIdleHandle_of_ready hr _).trans hset, hok, henv, hbits⟩

/-- `CHIP_ERASE` with an idle chip ends in `OK` and starts the internal operation (R63). -/
theorem runChipErase_of_faces {s : State} {e : LatchEnv} {sc : List Answer} (hs : s.Faces e sc) (hhigh : s.csN = .high)
    (hw : e.wip = false) (h : Handle) : (runChipErase h s).result = some .ok ∧
      ∃ e' : LatchEnv, e'.wel = true ∧ e'.wip = true ∧ (runChipErase h s).Faces e' sc := by
  obtain ⟨hok, e₁, hwel₁, hwip₁, hf₁⟩ := hs.latchSeq hhigh hw setsLatch_writeEnable h
  obtain ⟨htx, e₂, c, hc, hwel₂, hf₂⟩ := hf₁.window_busTx (latchSeq_csN h .writeEnable true s) hwip₁ h
    (Header.bytes .chipErase)
  have hwel : e₂.wel = true := hwel₂.trans hwel₁
  rw [LatchEnv.close_chipErase hc hwel] at hf₂
  simp only [runChipErase, writeEnableSeq, hok, htx, if_true]
  exact ⟨rfl, { e₂.freshWindow with wip := true }, hwel, rfl, hf₂.env, hf₂.script⟩

/-- `VERIFY_ID` with an idle chip ends in `OK` (R65). -/
theorem runVerifyId_of_faces {s : State} {e : LatchEnv} {sc : List Answer} (hs : s.Faces e sc) (hhigh : s.csN = .high)
    (hw : e.wip = false) (h : Handle) : (runVerifyId h s).result = some .ok ∧ ∃ e', (runVerifyId h s).Faces e' sc := by
  obtain ⟨hid, e', hf⟩ := State.Faces.window_readId (s := { s with hdr := some (Header.bytes .readId) })
    ⟨hs.env, hs.script⟩ hhigh hw h
  simp only [runVerifyId, hid]
  exact ⟨rfl, e', hf.env, hf.script⟩

/-- While the internal operation runs, the completion step of the environment clears both bits (R63). -/
theorem Transport.envComplete_env {t : Transport} {e : LatchEnv} (he : t.env = some e) (hw : e.wip = true) :
    t.envComplete.env = some e.complete := by
  simp [Transport.envComplete, he, hw]

/-- Settles O59: both operations meet a chip that hears every frame while it is idle. -/
theorem latchEnvErasesAndIdentifies : Obligations.LatchEnvErasesAndIdentifies := by
  unfold Obligations.LatchEnvErasesAndIdentifies
  intro s h e hr hhigh he hw
  constructor
  · obtain ⟨hok, e', hwel, hwip, hf⟩ := runChipErase_of_faces (s := s.begin .chipErase) ⟨he, rfl⟩ hhigh hw h
    exact ⟨_, e', e'.complete, (withIdleHandle_of_ready hr _).trans (settle_of_script hf.script), hok, hf.env, hwel,
      hwip, Transport.envComplete_env hf.env hwip, rfl, rfl⟩
  · obtain ⟨hok, e', hf⟩ := runVerifyId_of_faces (s := s.begin .verifyId) ⟨he, rfl⟩ hhigh hw h
    exact ⟨_, (withIdleHandle_of_ready hr _).trans (settle_of_script hf.script), hok⟩

/-! ### The polling loop (R85, R105) -/

/-- The host can poll: the block is ready, atomic, with its line high, and faces `e`. -/
structure PollsWith (h : Handle) (e : LatchEnv) (s : State) : Prop where
  ready : s.Ready h
  high : s.csN = .high
  grain : s.grain = .atomic
  env : s.transport.env = some e

/-- `READ_STATUS` under a latch environment: the byte shows the bits after three moments, and the host can poll again
after a fourth. -/
theorem PollsWith.readStatus {h : Handle} {e : LatchEnv} {s : State} (hs : PollsWith h e s) :
    ∃ (t : State) (b : Byte) (e₃ e₄ : LatchEnv), exec .readStatus s = .next t ∧ t.result = some .ok ∧
      t.status = some b ∧ statusWip b = e₃.wip ∧ LatchEnv.After 3 e e₃ ∧ LatchEnv.After 1 e₃ e₄ ∧ PollsWith h e₄ t := by
  obtain ⟨b, e₃, e₄, hb, hwip, -, ha₃, ha₄, hf⟩ :=
    State.Faces.readStatusSeq (s := s.begin .readStatus) ⟨hs.env, rfl⟩ hs.high h
  have hrun : runReadStatus h (s.begin .readStatus) =
      { (readStatusSeq h (s.begin .readStatus)).2 with status := some b }.complete .ok := by
    simp only [runReadStatus, hb]
  have he : exec .readStatus s = .next (runReadStatus h (s.begin .readStatus)) :=
    (withIdleHandle_of_ready hs.ready _).trans (settle_of_script (by rw [hrun]; exact hf.script))
  obtain ⟨-, tr, -, hend, -, -⟩ := exec_ends he
  refine ⟨_, b, e₃, e₄, he, by rw [hrun]; rfl, by rw [hrun]; rfl, hwip, ha₃, ha₄, ?_, ?_, ?_, ?_⟩
  · rw [hend]
    exact ⟨rfl, hs.ready.2⟩
  · rw [hrun]
    rfl
  · rw [hend]
    exact hs.grain
  · rw [hrun]
    exact hf.env

/-- One turn of the loop under a latch environment (R85). -/
theorem PollsWith.pollOnce {h : Handle} {e : LatchEnv} {s : State} (hs : PollsWith h e s) (maxPolls n : Nat) :
    ∃ (t : State) (e₃ e₄ : LatchEnv), LatchEnv.After 3 e e₃ ∧ LatchEnv.After 1 e₃ e₄ ∧ PollsWith h e₄ t ∧
      pollOnce maxPolls n s =
        .next (if e₃.wip then (if n + 1 = maxPolls then .timeout else .again (n + 1)) else .ready, t) := by
  obtain ⟨t, b, e₃, e₄, he, hok, hb, hwip, ha₃, ha₄, ht⟩ := hs.readStatus
  refine ⟨t, e₃, e₄, ha₃, ha₄, ht, ?_⟩
  simp only [Machine.pollOnce, operate_readStatus hs.grain, he, hok, hb, held_some, if_true, hwip]
  cases e₃.wip <;> rfl

/-- The loop with `n` polls counted ends ready within `k + 1` more where the chip completes in time. -/
theorem PollsWith.waitReady {h : Handle} {k maxPolls n : Nat} {e : LatchEnv} {s : State} (hs : PollsWith h e s)
    (hfair : e.completesWithin (4 * k + 3) = true) (hmax : maxPolls = 0 ∨ n + k + 1 ≤ maxPolls) :
    ∃ t, waitReady (k + 1) maxPolls n s = .next (.ready, t) := by
  induction k generalizing n e s with
  | zero =>
    obtain ⟨t, e₃, -, ha₃, -, -, hp⟩ := hs.pollOnce maxPolls n
    have hidle : e₃.wip = false := by simpa [LatchEnv.completesWithin] using ha₃.completes 0 hfair
    exact ⟨t, by simp [Machine.waitReady, hp, hidle]⟩
  | succ k ih =>
    obtain ⟨t, e₃, e₄, ha₃, ha₄, ht, hp⟩ := hs.pollOnce maxPolls n
    cases hw : e₃.wip with
    | false => exact ⟨t, by simp [Machine.waitReady, hp, hw]⟩
    | true =>
      have hfair₄ : e₄.completesWithin (4 * k + 3) = true := ha₄.completes _ (ha₃.completes _ hfair)
      have hmore : ¬ n + 1 = maxPolls := by omega
      obtain ⟨u, hu⟩ := ih ht hfair₄ (n := n + 1) (by omega)
      exact ⟨u, by rw [Machine.waitReady, hp, hw]; simpa [hmore] using hu⟩

/-- Settles O57, by induction on the number of polls the chip may still take. -/
theorem fairPollingEndsReady : Obligations.FairPollingEndsReady := by
  unfold Obligations.FairPollingEndsReady
  intro k maxPolls s h e hr hhigh hg he hfair hmax
  exact PollsWith.waitReady ⟨hr, hhigh, hg, he⟩ hfair (by omega)

end Sys2Proof.Machine

/-! ## The two encodings (R70 to R83) -/

namespace Sys2Proof.Machine

open Sys2Proof

/-! ### Host command codes (R82, R83) -/

/-- The codes 0 and 10 to 15 match no row of the table. -/
theorem decodeOpsel_of_reserved :
    ∀ c : BitVec 4, (c.toNat = 0 ∨ 10 ≤ c.toNat) → decodeOpsel c = .error (.reserved c) := by
  decide

/-- Settles O1: the decoder reads every code back and rejects the rest by name. -/
theorem opselCodesDecode : Obligations.OpselCodesDecode := by
  unfold Obligations.OpselCodesDecode
  exact ⟨by decide, decodeOpsel_encode, decodeOpsel_of_reserved⟩

/-- Settles O8: six closed words. -/
theorem sampleWordsDecode : Obligations.SampleWordsDecode := by
  unfold Obligations.SampleWordsDecode
  decide

/-- In the idle block the write of a code that names no operation is refused (R83). -/
theorem startOperation_of_invalid {s : State} {c : BitVec 4} {e : DecodeError} (hr : s.running = false)
    (hd : decodeOpsel c = .error e) : startOperation c s = .refused (.reservedOpsel c) := by
  simp only [startOperation, hr, hd, Bool.false_eq_true, if_false]

/-- Settles O11: the write reaches `startOperation` with a code the decoder rejects. -/
theorem reservedCodeStartsNothing : Obligations.ReservedCodeStartsNothing := by
  unfold Obligations.ReservedCodeStartsNothing
  intro s v rest hin hr hv
  have hlt : v < 16 := by omega
  have hcode : (BitVec.ofNat 4 v).toNat = v := by simpa using hlt
  have hd := decodeOpsel_of_reserved (BitVec.ofNat 4 v) (by omega)
  refine ⟨hd, ?_⟩
  rw [step_of_access hin, hostAccess_write_opsel hlt]
  exact startOperation_of_invalid (s := { s with inputs := rest }) hr hd

/-! ### Address bytes (R49 b, R76) -/

/-- The three bytes an address is sent as stand for it. -/
theorem ofBe24_be24 (a : Addr24) :
    ofBe24 (a.extractLsb' 16 8) (a.extractLsb' 8 8) (a.extractLsb' 0 8) = a := by
  rw [ofBe24, BitVec.extractLsb'_append_extractLsb'_eq_extractLsb' (by rfl),
    BitVec.extractLsb'_append_extractLsb'_eq_extractLsb' (by rfl)]
  exact BitVec.extractLsb'_eq_self

/-- The address that three bytes stand for is sent as those bytes. -/
theorem be24_ofBe24 (a2 a1 a0 : Byte) : be24 (ofBe24 a2 a1 a0) = [a2, a1, a0] := by
  have h2 : (a2 ++ a1 ++ a0).extractLsb' 16 8 = a2 := by
    rw [BitVec.extractLsb'_append_eq_of_le (by decide), BitVec.extractLsb'_append_eq_of_le (by decide)]
    exact BitVec.extractLsb'_eq_self
  have h1 : (a2 ++ a1 ++ a0).extractLsb' 8 8 = a1 := by
    rw [BitVec.extractLsb'_append_eq_of_le (by decide), BitVec.extractLsb'_append_eq_of_add_le (by decide)]
    exact BitVec.extractLsb'_eq_self
  have h0 : (a2 ++ a1 ++ a0).extractLsb' 0 8 = a0 := by
    rw [BitVec.extractLsb'_append_eq_of_add_le (by decide)]
    exact BitVec.extractLsb'_eq_self
  exact congrArg₂ List.cons h2 (congrArg₂ List.cons h1 (congrArg₂ List.cons h0 rfl))

/-- Shifting and masking takes out the byte that starts at bit `k`. -/
theorem setWidth_shiftRight_and_mask (a : Word32) (k : Nat) :
    ((a >>> k) &&& 0xFF).setWidth 8 = a.extractLsb' k 8 := by
  apply BitVec.eq_of_toNat_eq
  simp [Nat.and_two_pow_sub_one_eq_mod _ 8]

/-- Below bit 24 an address of a frame has the bytes of `ADDR`. -/
theorem extractLsb'_addr24 (a : Word32) {k : Nat} (hk : k + 8 ≤ 24) :
    (addr24 a).extractLsb' k 8 = a.extractLsb' k 8 := by
  refine BitVec.eq_of_getLsbD_eq fun i hi => ?_
  simp [addr24, hi, show k + i < 24 by omega]

/-- Settles O4, byte by byte. -/
theorem addressBytesBigEndian : Obligations.AddressBytesBigEndian := by
  unfold Obligations.AddressBytesBigEndian
  intro a
  rw [be24, extractLsb'_addr24 a (by decide), extractLsb'_addr24 a (by decide), extractLsb'_addr24 a (by decide),
    setWidth_shiftRight_and_mask a 16, setWidth_shiftRight_and_mask a 8, ← setWidth_shiftRight_and_mask a 0]
  simp

/-! ### Frame headers (R72 to R78) -/

theorem decodeHeader_bytes (hd : Header) : decodeHeader hd.bytes = .ok hd := by
  cases hd with
  | pageProgram a => exact congrArg (fun x => Except.ok (Header.pageProgram x)) (ofBe24_be24 a)
  | readBytes a => exact congrArg (fun x => Except.ok (Header.readBytes x)) (ofBe24_be24 a)
  | _ => rfl

/-- Settles O2: the two addresses through `ofBe24`, the other headers as they are. -/
theorem headerDecodesFromItsBytes : Obligations.HeaderDecodesFromItsBytes := by
  unfold Obligations.HeaderDecodesFromItsBytes
  exact decodeHeader_bytes

theorem bytes_of_decodeHeader {bs : List Byte} {hd : Header} (h : decodeHeader bs = .ok hd) : hd.bytes = bs := by
  cases bs with
  | nil => cases h
  | cons b rest =>
    simp only [decodeHeader] at h
    split_ifs at h <;> subst_vars
    -- the five headers without an address are single byte lists
    any_goals (cases h; rfl)
    · split at h <;> cases h
      exact congrArg (List.cons 0x02) (be24_ofBe24 _ _ _)
    · split at h <;> cases h
      exact congrArg (List.cons 0x03) (be24_ofBe24 _ _ _)

/-- Settles O3: the decoder checks all that follows the opcode. -/
theorem headerBytesAreUnique : Obligations.HeaderBytesAreUnique := by
  unfold Obligations.HeaderBytesAreUnique
  exact fun _ _ => bytes_of_decodeHeader

end Sys2Proof.Machine

/-! ## The frames an operation sends (R78 to R80) -/

namespace Sys2Proof.Machine

open Sys2Proof

/-! ### No frame begins with an unknown opcode (R80) -/

/-- A trace that is fine where an opcode is due is fine where none is. -/
theorem opcodesFrom_false_of_true {tr : List Event} (h : opcodesFrom true tr = true) : opcodesFrom false tr = true := by
  induction tr with
  | nil => rfl
  | cons e tr ih =>
    rcases e with ⟨line, _ | _⟩ | _ | _
    · exact h
    · exact h
    · simp only [opcodesFrom, Bool.and_eq_true] at h ⊢
      exact ⟨rfl, h.2⟩
    · exact ih h

theorem opcodesFrom_append {expecting : Bool} {xs ys : List Event} (hx : opcodesFrom expecting xs = true)
    (hy : opcodesKnown ys = true) : opcodesFrom expecting (xs ++ ys) = true := by
  induction xs generalizing expecting with
  | nil =>
    cases expecting with
    | true => exact hy
    | false => exact opcodesFrom_false_of_true hy
  | cons e xs ih =>
    rcases e with ⟨line, _ | _⟩ | _ | _
    · exact ih hx
    · exact ih hx
    · simp only [List.cons_append, opcodesFrom, Bool.and_eq_true] at hx ⊢
      exact ⟨hx.1, ih hx.2⟩
    · exact ih hx

theorem opcodesKnown_append {xs ys : List Event} (hx : opcodesKnown xs = true) (hy : opcodesKnown ys = true) :
    opcodesKnown (xs ++ ys) = true :=
  opcodesFrom_append hx hy

theorem opcodesKnown_latchEvents (h : Handle) (cmd : Header) (b : Byte) :
    opcodesKnown (latchEvents h cmd b) = true := by
  cases cmd <;> rfl

theorem opcodesKnown_of_mem_latchFailures {h : Handle} {cmd : Header} {tr : List Event}
    (htr : tr ∈ latchFailures h cmd) : opcodesKnown tr = true := by
  simp only [latchFailures, List.mem_cons, List.not_mem_nil, or_false] at htr
  rcases htr with rfl | rfl | rfl <;> cases cmd <;> rfl

/-- The events of each operation, path by path. -/
theorem exec_opcodesKnown {i : Instr} {s t : State} (he : exec i s = .next t) :
    opcodesKnown (newEvents s t) = true := by
  cases i with
  | csAssert =>
    obtain ⟨h, -, rfl⟩ := execCsAssert_spec he
    simp [newEvents, opcodesKnown, opcodesFrom]
  | csDeassert =>
    obtain ⟨h, -, rfl⟩ := execCsDeassert_spec he
    simp [newEvents, opcodesKnown, opcodesFrom]
  | verifyId =>
    obtain ⟨h, -, -, -, -, hw | hw | ⟨b, -, hw⟩⟩ := execVerifyId_cases he <;> rw [hw.newEvents] <;> rfl
  | readStatus =>
    obtain ⟨h, -, -, -, ⟨-, hw⟩ | ⟨-, hw⟩ | ⟨b, -, hw⟩⟩ := execReadStatus_cases he <;> rw [hw.newEvents] <;> rfl
  | writeEnable =>
    obtain ⟨h, -, -, -, -, ⟨tr, hm, hw⟩ | ⟨b, hw⟩⟩ := execWriteEnable_cases he <;> rw [hw.newEvents]
    · exact opcodesKnown_of_mem_latchFailures hm
    · exact opcodesKnown_latchEvents h _ b
  | writeDisable =>
    obtain ⟨h, -, -, -, -, ⟨tr, hm, hw⟩ | ⟨b, hw⟩⟩ := execWriteDisable_cases he <;> rw [hw.newEvents]
    · exact opcodesKnown_of_mem_latchFailures hm
    · exact opcodesKnown_latchEvents h _ b
  | chipErase =>
    obtain ⟨h, -, -, -, -, ⟨tr, hm, hw⟩ | ⟨b, -, hw⟩ | ⟨b, ok, -, hw⟩⟩ := execChipErase_cases he <;>
      rw [hw.newEvents]
    · exact opcodesKnown_of_mem_latchFailures hm
    · exact opcodesKnown_latchEvents h _ b
    · exact opcodesKnown_append (opcodesKnown_latchEvents h _ b) rfl
  | pageProgram =>
    obtain ⟨h, a, n, -, -, -, -, -, ⟨-, rfl⟩ |
      ⟨v, -, -, -, ⟨tr, hm, -, hw⟩ | ⟨b, -, -, hw⟩ | ⟨b, -, -, hw⟩ | ⟨b, ok, -, -, hw⟩⟩⟩ := execPageProgram_cases he
    · simp [newEvents, opcodesKnown, opcodesFrom]
    all_goals rw [hw.newEvents]
    · exact opcodesKnown_of_mem_latchFailures hm
    · exact opcodesKnown_latchEvents h _ b
    · exact opcodesKnown_append (opcodesKnown_latchEvents h _ b) rfl
    · exact opcodesKnown_append (opcodesKnown_latchEvents h _ b) rfl
  | readData =>
    obtain ⟨h, a, n, -, -, -, -, -, ⟨-, -, tr, hm, hw⟩ | ⟨-, -, b, -, hw⟩ | ⟨pre, hpre, hc⟩⟩ := execReadData_cases he
    · rw [hw.newEvents]
      exact opcodesKnown_of_mem_latchFailures hm
    · rw [hw.newEvents]
      exact opcodesKnown_latchEvents h _ b
    · have hknown : opcodesKnown pre = true := by
        rcases hpre with ⟨-, b, -, rfl⟩ | ⟨-, rfl⟩
        · exact opcodesKnown_latchEvents h _ b
        · rfl
      rcases hc with ⟨-, hw⟩ | ⟨-, hw⟩ | ⟨b, -, -, hw⟩ <;> rw [hw.newEvents] <;>
        exact opcodesKnown_append hknown rfl

/-- Settles O43, from the events of each path. -/
theorem onlyKnownOpcodesAreSent : Obligations.OnlyKnownOpcodesAreSent := by
  unfold Obligations.OnlyKnownOpcodesAreSent
  exact fun _ _ _ => exec_opcodesKnown

/-! ### The success path (R79) -/

/-- The events `tr` are those of the table for operation `i`: its primitives, and their counts. -/
def FollowsTable (i : Instr) (pre : Bool) (a n : Word32) (v : List Byte) (tr : List Event) : Prop :=
  tr.map Event.prim = successPrims i pre a n v ∧ eventCounts tr = successCounts i pre

theorem EndedWith.eq_ok {i : Instr} {s t : State} {tr : List Event} {k : ResultKind} (h : EndedWith i s t tr k)
    (hok : t.result = some .ok) : k = .ok :=
  Option.some.inj (h.result.symm.trans hok)

/-- An operation that ends in `OK` took the path of the table. -/
theorem exec_followsTable {i : Instr} {s t : State} {a n : Word32} {v : List Byte} (hi : writesResult i = true)
    (he : exec i s = .next t) (hok : t.result = some .ok) (ha : s.addr.getD 0 = a) (hn : s.len.getD 0 = n)
    (hv : i = .pageProgram → cellSlice s.txbuf 0 n.toNat = some v) :
    FollowsTable i s.readPreWren a n v (newEvents s t) := by
  cases i with
  | csAssert => cases hi
  | csDeassert => cases hi
  | verifyId =>
    obtain ⟨h, -, -, -, -, hw | hw | ⟨b, -, hw⟩⟩ := execVerifyId_cases he
    · cases hw.eq_ok hok
    · cases hw.eq_ok hok
    · rw [hw.newEvents]
      exact ⟨rfl, rfl⟩
  | readStatus =>
    obtain ⟨h, -, -, -, ⟨-, hw⟩ | ⟨-, hw⟩ | ⟨b, -, hw⟩⟩ := execReadStatus_cases he
    · cases hw.eq_ok hok
    · cases hw.eq_ok hok
    · rw [hw.newEvents]
      exact ⟨rfl, rfl⟩
  | writeEnable =>
    obtain ⟨h, -, -, -, -, ⟨tr, -, hw⟩ | ⟨b, hw⟩⟩ := execWriteEnable_cases he
    · cases hw.eq_ok hok
    · rw [hw.newEvents]
      exact ⟨rfl, rfl⟩
  | writeDisable =>
    obtain ⟨h, -, -, -, -, ⟨tr, -, hw⟩ | ⟨b, hw⟩⟩ := execWriteDisable_cases he
    · cases hw.eq_ok hok
    · rw [hw.newEvents]
      exact ⟨rfl, rfl⟩
  | chipErase =>
    obtain ⟨h, -, -, -, -, ⟨tr, -, hw⟩ | ⟨b, -, hw⟩ | ⟨b, ok, -, hw⟩⟩ := execChipErase_cases he
    · cases hw.eq_ok hok
    · cases hw.eq_ok hok
    · rw [hw.newEvents]
      exact ⟨rfl, rfl⟩
  | pageProgram =>
    obtain ⟨h, a', n', -, ha', hn', -, -, ⟨-, rfl⟩ |
      ⟨v', -, -, hv', ⟨tr, -, -, hw⟩ | ⟨b, -, -, hw⟩ | ⟨b, -, -, hw⟩ | ⟨b, ok, -, -, hw⟩⟩⟩ := execPageProgram_cases he
    · cases hok
    · cases hw.eq_ok hok
    · cases hw.eq_ok hok
    · cases hw.eq_ok hok
    · obtain rfl : a' = a := by simpa [ha'] using ha
      obtain rfl : n' = n := by simpa [hn'] using hn
      obtain rfl : v' = v := Option.some.inj (hv'.symm.trans (hv rfl))
      rw [hw.newEvents]
      exact ⟨rfl, rfl⟩
  | readData =>
    obtain ⟨h, a', n', -, ha', hn', -, -, ⟨-, -, tr, -, hw⟩ | ⟨-, -, b, -, hw⟩ | ⟨pre, hpre, hc⟩⟩ :=
      execReadData_cases he
    · cases hw.eq_ok hok
    · cases hw.eq_ok hok
    · obtain rfl : a' = a := by simpa [ha'] using ha
      obtain rfl : n' = n := by simpa [hn'] using hn
      rcases hc with ⟨-, hw⟩ | ⟨-, hw⟩ | ⟨b, -, -, hw⟩
      · cases hw.eq_ok hok
      · cases hw.eq_ok hok
      · rw [hw.newEvents]
        rcases hpre with ⟨hp, b', -, rfl⟩ | ⟨hp, rfl⟩ <;> rw [hp]
        · exact ⟨rfl, rfl⟩
        · exact ⟨rfl, rfl⟩

/-- Settles O45: the payload of the table is the slice of `TXBUF` that `PAGE_PROGRAM` sends. -/
theorem successPathFrames : Obligations.SuccessPathFrames := by
  unfold Obligations.SuccessPathFrames
  intro i s t a n v he ha hn hv
  refine ⟨fun hi hok => exec_followsTable hi he hok ha hn fun hp => ?_, ?_, ?_⟩
  · simpa using (cellSlice_eq_some_iff s.txbuf 0 n.toNat v).2 (by simpa using hv hp)
  · rintro rfl
    obtain ⟨h, -, rfl⟩ := execCsAssert_spec he
    simp [newEvents, Event.prim]
  · rintro rfl
    obtain ⟨h, -, rfl⟩ := execCsDeassert_spec he
    simp [newEvents, Event.prim]

/-! ### The polling loop (R85, R104) -/

/-- The last status read delivered a byte whose WIP bit is `w`. -/
def ShowsWip (w : Bool) (t : State) : Prop := t.result = some .ok ∧ ∃ b, t.status = some b ∧ b.getLsbD 0 = w

/-- Where the loop may stand in `t` with `p` polls counted, the last of them just made. -/
def StandsAfter (maxPolls p : Nat) (t : State) : PollExit → Prop
  | .ready => ShowsWip false t
  | .fail => t.result = some .comm ∧ t.status = none
  | .timeout => p = maxPolls ∧ ShowsWip true t
  | .again n => n = p ∧ p ≠ maxPolls ∧ ShowsWip true t

/-- A status read opens one window, whatever the transport answers (R102). -/
theorem exec_readStatus_opens {s t : State} (he : exec .readStatus s = .next t) :
    ∃ tr, EndedIdle .readStatus s t tr ∧ tr.countP Event.opens = 1 := by
  obtain ⟨h, -, -, -, ⟨-, hw⟩ | ⟨-, hw⟩ | ⟨b, -, hw⟩⟩ := execReadStatus_cases he <;>
    exact ⟨_, hw.endedIdle, rfl⟩

theorem pollOnce_stands {maxPolls n : Nat} {s t : State} {e : PollExit} (hg : s.grain = .atomic)
    (hp : pollOnce maxPolls n s = .next (e, t)) : StandsAfter maxPolls (n + 1) t e := by
  obtain ⟨-, ⟨hr, hs, rfl⟩ | ⟨b, hr, hs, rfl⟩⟩ := pollOnce_cases hg hp
  · exact ⟨hr, hs⟩
  · cases hb : statusWip b with
    | false => exact ⟨hr, b, hs, hb⟩
    | true =>
      by_cases hmax : n + 1 = maxPolls
      · simpa [hmax] using show StandsAfter maxPolls (n + 1) t .timeout from ⟨hmax, hr, b, hs, hb⟩
      · simpa [hmax] using show StandsAfter maxPolls (n + 1) t (.again (n + 1)) from ⟨rfl, hmax, hr, b, hs, hb⟩

/-- The loop with `n` polls counted, followed for `fuel` more: it has added the events `tr`, one window a poll, within
its bound; it has made no poll, or stands where the last one left it. -/
structure LoopRuns (fuel maxPolls n : Nat) (s t : State) (e : PollExit) (tr : List Event) : Prop where
  trace : t.trace = s.trace ++ tr
  polls_le : tr.countP Event.opens ≤ fuel
  bound : maxPolls = 0 ∨ n + tr.countP Event.opens ≤ maxPolls
  stands : (fuel = 0 ∧ t = s ∧ e = .again n) ∨
    (0 < tr.countP Event.opens ∧ StandsAfter maxPolls (n + tr.countP Event.opens) t e)
  again : ∀ m, e = .again m → tr.countP Event.opens = fuel

/-- A loop that leaves after one poll. -/
theorem LoopRuns.of_exit {fuel maxPolls n : Nat} {s t : State} {e : PollExit} {tr : List Event}
    (htr : t.trace = s.trace ++ tr) (hone : tr.countP Event.opens = 1) (hn : maxPolls = 0 ∨ n < maxPolls)
    (hst : StandsAfter maxPolls (n + 1) t e) (hexit : ∀ m, e ≠ .again m) :
    LoopRuns (fuel + 1) maxPolls n s t e tr where
  trace := htr
  polls_le := by omega
  bound := by omega
  stands := .inr (by rw [hone]; exact ⟨Nat.one_pos, hst⟩)
  again m hm := absurd hm (hexit m)

/-- A loop that polls once and goes on. -/
theorem LoopRuns.of_again {fuel maxPolls n : Nat} {s t u : State} {e : PollExit} {tr tr' : List Event}
    (htr : u.trace = s.trace ++ tr) (hone : tr.countP Event.opens = 1)
    (hst : StandsAfter maxPolls (n + 1) u (.again (n + 1))) (hrest : LoopRuns fuel maxPolls (n + 1) u t e tr') :
    LoopRuns (fuel + 1) maxPolls n s t e (tr ++ tr') := by
  obtain ⟨htrace, hle, hbound, hstands, hagain⟩ := hrest
  have hcount : (tr ++ tr').countP Event.opens = tr'.countP Event.opens + 1 := by
    rw [List.countP_append, hone, Nat.add_comm]
  refine ⟨by rw [htrace, htr, List.append_assoc], by omega, by omega, .inr ⟨by omega, ?_⟩, fun m hm => ?_⟩
  · rw [hcount, show n + (tr'.countP Event.opens + 1) = n + 1 + tr'.countP Event.opens by omega]
    rcases hstands with ⟨hfuel, rfl, rfl⟩ | ⟨-, hst'⟩
    · rw [show tr'.countP Event.opens = 0 by omega]
      exact hst
    · exact hst'
  · rw [hcount, hagain m hm]

/-- `wait_ready` poll by poll, from where the bound is not met (R85). -/
theorem waitReady_runs {fuel maxPolls n : Nat} {s t : State} {e : PollExit} (hg : s.grain = .atomic)
    (hn : maxPolls = 0 ∨ n < maxPolls) (hw : waitReady fuel maxPolls n s = .next (e, t)) :
    ∃ tr, LoopRuns fuel maxPolls n s t e tr := by
  induction fuel generalizing n s with
  | zero =>
    obtain ⟨rfl, rfl⟩ : PollExit.again n = e ∧ s = t := by simpa [waitReady] using hw
    exact ⟨[], by simp, by simp, by simpa using hn.imp_right Nat.le_of_lt, .inl ⟨rfl, rfl, rfl⟩, by simp⟩
  | succ fuel ih =>
    cases hp : pollOnce maxPolls n s with
    | fault f => simp [waitReady, hp] at hw
    | refused r => simp [waitReady, hp] at hw
    | next r =>
      obtain ⟨e', u⟩ := r
      have hst := pollOnce_stands hg hp
      obtain ⟨tr, hend, hone⟩ := exec_readStatus_opens (pollOnce_cases hg hp).1
      have htr : u.trace = s.trace ++ tr := by rw [hend]
      cases e' with
      | again n' =>
        obtain rfl : n' = n + 1 := hst.1
        have hmore : n + 1 ≠ maxPolls := hst.2.1
        have hgu : u.grain = .atomic := by rw [hend]; exact hg
        obtain ⟨tr', hrest⟩ := ih (n := n + 1) hgu (by omega) (by simpa [waitReady, hp] using hw)
        exact ⟨tr ++ tr', hrest.of_again htr hone hst⟩
      | _ =>
        obtain ⟨rfl, rfl⟩ : _ = e ∧ u = t := by simpa [waitReady, hp] using hw
        exact ⟨tr, .of_exit htr hone hn hst (by simp)⟩

/-- Settles O56: the exits of `waitReady_runs` with no poll counted before. -/
theorem pollingLoopExits : Obligations.PollingLoopExits := by
  unfold Obligations.PollingLoopExits
  intro fuel maxPolls s t e hg hw
  obtain ⟨tr, htrace, hle, hbound, hstands, hagain⟩ := waitReady_runs hg (by omega) hw
  have hnew : newEvents s t = tr := by simp [newEvents, htrace]
  rw [hnew]
  rw [Nat.zero_add] at hbound hstands
  refine ⟨hle, fun hmax => hbound.resolve_left hmax, ?_⟩
  rcases hstands with ⟨rfl, rfl, rfl⟩ | ⟨hpos, hst⟩
  · have hz := hagain 0 rfl
    exact ⟨hz.symm, hz, by omega, by simp⟩
  · cases e with
    | ready => exact ⟨hpos, hst⟩
    | fail => exact ⟨hpos, hst⟩
    | timeout => exact ⟨hpos, hst⟩
    | again m =>
      obtain ⟨hm, hmore, hwip⟩ := hst
      have hfuel := hagain m rfl
      exact ⟨hm, hfuel, by omega, fun _ => hwip⟩

end Sys2Proof.Machine

/-! ## The chip-select primitives (R90, R91) -/

namespace Sys2Proof.Machine

open Sys2Proof

/-- A primitive drives the line, records the event and goes back to idle; `RESULT` stays (R90, R91). -/
theorem State.toIdle_csSet_begin (i : Instr) (h : Handle) (l : Level) (s : State) :
    ((s.begin i).csSet h l).toIdle = { s with
      opsel := some (encode i), csN := l, trace := s.trace ++ [.cs h.csLine l],
      transport := s.transport.select s.csN l,
      busy := false, seq := .idle, hdr := none, srTmp := none, idTmp := none, err := none, rxTmp := none } := rfl

theorem exec_csAssert_of_ready {s : State} {h : Handle} (hr : s.Ready h) :
    exec .csAssert s = .next ((s.begin .csAssert).csSet h .low).toIdle :=
  withIdleHandle_of_ready hr _

theorem exec_csDeassert_of_ready {s : State} {h : Handle} (hr : s.Ready h) :
    exec .csDeassert s = .next ((s.begin .csDeassert).csSet h .high).toIdle :=
  withIdleHandle_of_ready hr _

theorem encode_csAssert : encode .csAssert = 1 := rfl

theorem encode_csDeassert : encode .csDeassert = 2 := rfl

/-- Settles O22: the primitive's one path, with the code of R82. -/
theorem csAssertDrivesTheLineLow : Obligations.CsAssertDrivesTheLineLow := by
  unfold Obligations.CsAssertDrivesTheLineLow
  intro s h hr
  rw [exec_csAssert_of_ready hr, State.toIdle_csSet_begin, encode_csAssert]

/-- Settles O23: the primitive's one path, with the code of R82. -/
theorem csDeassertDrivesTheLineHigh : Obligations.CsDeassertDrivesTheLineHigh := by
  unfold Obligations.CsDeassertDrivesTheLineHigh
  intro s h hr
  rw [exec_csDeassert_of_ready hr, State.toIdle_csSet_begin, encode_csDeassert]

end Sys2Proof.Machine

/-! ## Frames answered by the oracle, and `VERIFY_ID` (R96, R97)

Where the oracle stands in no environment's place, its next answers fix what a frame leaves. -/

namespace Sys2Proof.Machine

open Sys2Proof

/-- An operation whose used answers `as` hold no silence settles, whatever the answers `rest` left over are. -/
theorem settle_of_oracle {s t : State} {as rest : List Answer} (hs : s.OracleSays as rest) (has : Answer.never ∉ as)
    (ht : t.transport.script = rest) : settle s t = .next t := by
  have hsame : t.transport.silences = s.transport.silences := by
    simp [Transport.silences, hs.2, ht, List.count_eq_zero_of_not_mem has]
  simp [settle, Transport.fellSilent, hsame]

/-- `s` after a closed window with the events `tr` that left the answers `rest`. -/
def State.afterWindow (s : State) (tr : List Event) (rest : List Answer) : State :=
  { s with csN := .high, trace := s.trace ++ tr, transport := { s.transport with script := rest } }

section

variable {s : State} {rest : List Answer}

theorem csSet_of_oracle (henv : s.transport.env = none) (h : Handle) (l : Level) :
    s.csSet h l = { s with csN := l, trace := s.trace ++ [.cs h.csLine l] } := by
  rw [State.csSet, Transport.select_oracle henv]

/-- A failed transmit closes the window without a receive. -/
theorem window_sendReceive_txFail (hs : s.OracleSays [.fail] rest) (h : Handle) (hdr : List Byte) (n : Nat) :
    window h (sendReceive h hdr n) s = (none, s.afterWindow
      [.cs h.csLine .low, .tx h.bus h.timeout hdr false, .cs h.csLine .high] rest) := by
  obtain ⟨henv, hscript⟩ := hs
  simp [window, sendReceive, State.busTx, csSet_of_oracle, Transport.tx_oracle henv hscript, henv, State.afterWindow]

/-- A failed receive delivers nothing. -/
theorem window_sendReceive_rxFail {p : List Byte} (hs : s.OracleSays [.ok p, .fail] rest) (h : Handle)
    (hdr : List Byte) (n : Nat) :
    window h (sendReceive h hdr n) s = (none, s.afterWindow
      [.cs h.csLine .low, .tx h.bus h.timeout hdr true, .rx h.bus h.timeout n none, .cs h.csLine .high] rest) := by
  obtain ⟨henv, hscript⟩ := hs
  simp [window, sendReceive, State.busTx, State.busRx, csSet_of_oracle, Transport.tx_oracle henv hscript,
    Transport.rx_oracle_fail, henv, State.afterWindow]

/-- A receive answered with as many bytes as requested delivers them. -/
theorem window_sendReceive_ok {p bs : List Byte} (hs : s.OracleSays [.ok p, .ok bs] rest) (h : Handle)
    (hdr : List Byte) :
    window h (sendReceive h hdr bs.length) s = (some bs, s.afterWindow
      [.cs h.csLine .low, .tx h.bus h.timeout hdr true, .rx h.bus h.timeout bs.length (some bs), .cs h.csLine .high]
      rest) := by
  obtain ⟨henv, hscript⟩ := hs
  simp [window, sendReceive, State.busTx, State.busRx, csSet_of_oracle, Transport.tx_oracle henv hscript,
    Transport.rx_oracle_ok, henv, State.afterWindow]

end

/-- The verdict on a pair compares both bytes (R97). -/
theorem idVerdict_pair (m d : Byte) : idVerdict [m, d] = if m = 0xC2 ∧ d = 0x14 then .ok else .idMismatch := by
  simp [idVerdict, expectedId]

/-- `VERIFY_ID` ends as its one window says: `COMM` without an answer, else the verdict on the bytes (R96). -/
theorem exec_verifyId_of_window {s : State} {h : Handle} {as rest : List Answer} {tr : List Event}
    {x : Option (List Byte)} (hr : s.Ready h) (hs : s.OracleSays as rest) (has : Answer.never ∉ as)
    (hw : ∀ u : State, u.OracleSays as rest →
      window h (sendReceive h (Header.bytes .readId) 2) u = (x, u.afterWindow tr rest)) :
    exec .verifyId s = .next (ended .verifyId s tr rest (x.elim .comm idVerdict)) := by
  have hrun : runVerifyId h (s.begin .verifyId) = ended .verifyId s tr rest (x.elim .comm idVerdict) := by
    rw [runVerifyId, hw { s.begin .verifyId with hdr := some (Header.bytes .readId) } hs]
    cases x <;> rfl
  calc exec .verifyId s = settle s (runVerifyId h (s.begin .verifyId)) := withIdleHandle_of_ready hr _
    _ = .next (ended .verifyId s tr rest (x.elim .comm idVerdict)) := by
      rw [hrun, settle_of_oracle hs has rfl]

/-- Settles O24: the one window of the operation under each of the three answer lists. -/
theorem verifyIdOutcomes : Obligations.VerifyIdOutcomes := by
  unfold Obligations.VerifyIdOutcomes
  intro s h rest p m d hr
  refine ⟨fun hs => ?_, fun hs => ?_, fun hs => ?_⟩
  · rw [← idVerdict_pair]
    exact exec_verifyId_of_window hr hs (by simp) fun u hu => window_sendReceive_ok (bs := [m, d]) hu h _
  · exact exec_verifyId_of_window hr hs (by simp) fun u hu => window_sendReceive_txFail hu h _ _
  · exact exec_verifyId_of_window hr hs (by simp) fun u hu => window_sendReceive_rxFail hu h _ _

end Sys2Proof.Machine

/-! ## The status frame answered by the oracle, and `READ_STATUS` (R101, R102) -/

namespace Sys2Proof.Machine

open Sys2Proof

section

variable {s : State} {rest : List Answer}

theorem readStatusSeq_txFail (hs : s.OracleSays [.fail] rest) (h : Handle) :
    readStatusSeq h s = (none, s.afterWindow
      [.cs h.csLine .low, .tx h.bus h.timeout [0x05] false, .cs h.csLine .high] rest) := by
  rw [readStatusSeq, window_sendReceive_txFail hs]
  rfl

theorem readStatusSeq_rxFail {p : List Byte} (hs : s.OracleSays [.ok p, .fail] rest) (h : Handle) :
    readStatusSeq h s = (none, s.afterWindow
      [.cs h.csLine .low, .tx h.bus h.timeout [0x05] true, .rx h.bus h.timeout 1 none, .cs h.csLine .high] rest) := by
  rw [readStatusSeq, window_sendReceive_rxFail hs]
  rfl

/-- The byte received is delivered as it came, whatever its bits (R101). -/
theorem readStatusSeq_ok {p : List Byte} {b : Byte} (hs : s.OracleSays [.ok p, .ok [b]] rest) (h : Handle) :
    readStatusSeq h s = (some b, s.afterWindow
      [.cs h.csLine .low, .tx h.bus h.timeout [0x05] true, .rx h.bus h.timeout 1 (some [b]), .cs h.csLine .high]
      rest) := by
  have hw := window_sendReceive_ok hs h (Header.bytes .readStatus)
  rw [List.length_singleton] at hw
  rw [readStatusSeq, hw]
  rfl

end

/-- `READ_STATUS` ends as its status frame says: the byte goes to `STATUS`, or `STATUS` loses its value and the result
is `COMM` (R101). -/
theorem exec_readStatus_of_seq {s : State} {h : Handle} {as rest : List Answer} {tr : List Event} {x : Option Byte}
    (hr : s.Ready h) (hs : s.OracleSays as rest) (has : Answer.never ∉ as)
    (hq : readStatusSeq h (s.begin .readStatus) = (x, (s.begin .readStatus).afterWindow tr rest)) :
    exec .readStatus s =
      .next { ended .readStatus s tr rest (x.elim .comm fun _ => .ok) with status := x } := by
  have hrun : runReadStatus h (s.begin .readStatus) =
      { ended .readStatus s tr rest (x.elim .comm fun _ => .ok) with status := x } := by
    rw [runReadStatus, hq]
    cases x <;> rfl
  calc exec .readStatus s = settle s (runReadStatus h (s.begin .readStatus)) := withIdleHandle_of_ready hr _
    _ = _ := by rw [hrun, settle_of_oracle hs has rfl]

/-- Settles O25: the status frame of the operation under each of the three answer lists, which its start leaves in
place. -/
theorem readStatusOutcomes : Obligations.ReadStatusOutcomes := by
  unfold Obligations.ReadStatusOutcomes
  intro s h rest p b hr
  refine ⟨fun hs => ?_, fun hs => ?_, fun hs => ?_⟩
  · exact exec_readStatus_of_seq hr hs (by simp) (readStatusSeq_ok (s := s.begin .readStatus) hs h)
  · exact exec_readStatus_of_seq hr hs (by simp) (readStatusSeq_txFail (s := s.begin .readStatus) hs h)
  · exact exec_readStatus_of_seq hr hs (by simp) (readStatusSeq_rxFail (s := s.begin .readStatus) hs h)

end Sys2Proof.Machine

/-! ## The latch sequence answered by the oracle, and `WRITE_ENABLE`, `WRITE_DISABLE` (R108, R109, R111) -/

namespace Sys2Proof.Machine

open Sys2Proof

section

variable {s : State} {rest : List Answer}

theorem window_busTx_ok {p : List Byte} (hs : s.OracleSays [.ok p] rest) (h : Handle) (bytes : List Byte) :
    window h (State.busTx h bytes) s = (true, s.afterWindow
      [.cs h.csLine .low, .tx h.bus h.timeout bytes true, .cs h.csLine .high] rest) := by
  obtain ⟨henv, hscript⟩ := hs
  simp [window, State.busTx, csSet_of_oracle, Transport.tx_oracle henv hscript, henv, State.afterWindow]

theorem window_busTx_fail (hs : s.OracleSays [.fail] rest) (h : Handle) (bytes : List Byte) :
    window h (State.busTx h bytes) s = (false, s.afterWindow
      [.cs h.csLine .low, .tx h.bus h.timeout bytes false, .cs h.csLine .high] rest) := by
  obtain ⟨henv, hscript⟩ := hs
  simp [window, State.busTx, csSet_of_oracle, Transport.tx_oracle henv hscript, henv, State.afterWindow]

@[simp] theorem State.afterWindow_afterWindow (tr tr' : List Event) (rest' : List Answer) :
    (s.afterWindow tr rest').afterWindow tr' rest = s.afterWindow (tr ++ tr') rest := by
  simp [State.afterWindow]

/-- A latch sequence whose command went out ends as its status frame says (R109). -/
theorem latchSeq_of_command {h : Handle} {cmd : Header} {want : Bool} {p : List Byte} {as : List Answer}
    {tr : List Event} {x : Option Byte} (hs : s.OracleSays (.ok p :: as) rest)
    (hq : ∀ u : State, u.OracleSays as rest → readStatusSeq h u = (x, u.afterWindow tr rest)) :
    latchSeq h cmd want s = (x.elim .comm (latchVerdict want), { s.afterWindow
      ([.cs h.csLine .low, .tx h.bus h.timeout cmd.bytes true, .cs h.csLine .high] ++ tr) rest with
      srTmp := x.or s.srTmp }) := by
  have hcmd := window_busTx_ok (rest := as ++ rest) hs h cmd.bytes
  have hstatus := fun sent => hq (s.afterWindow sent (as ++ rest)) ⟨hs.1, rfl⟩
  simp only [latchSeq, hcmd, hstatus, if_true, State.afterWindow_afterWindow]
  cases x <;> rfl

end

/-- The four paths of `LatchSeq` (R109): the answers it uses up, the events it adds, and its verdict. -/
inductive LatchPath (h : Handle) (cmd : Header) (want : Bool) : List Answer → List Event → ResultKind → Prop where
  | commandFailed : LatchPath h cmd want [.fail]
      [.cs h.csLine .low, .tx h.bus h.timeout cmd.bytes false, .cs h.csLine .high] .comm
  | statusFailed (p : List Byte) : LatchPath h cmd want [.ok p, .fail]
      [.cs h.csLine .low, .tx h.bus h.timeout cmd.bytes true, .cs h.csLine .high,
       .cs h.csLine .low, .tx h.bus h.timeout [0x05] false, .cs h.csLine .high] .comm
  | receiveFailed (p q : List Byte) : LatchPath h cmd want [.ok p, .ok q, .fail]
      [.cs h.csLine .low, .tx h.bus h.timeout cmd.bytes true, .cs h.csLine .high,
       .cs h.csLine .low, .tx h.bus h.timeout [0x05] true, .rx h.bus h.timeout 1 none, .cs h.csLine .high] .comm
  | decided (p q : List Byte) (b : Byte) : LatchPath h cmd want [.ok p, .ok q, .ok [b]] (latchEvents h cmd b)
      (latchVerdict want b)

theorem LatchPath.decided_as {h : Handle} {cmd : Header} {want : Bool} {b : Byte} {k : ResultKind}
    (hk : latchVerdict want b = k) (p q : List Byte) :
    LatchPath h cmd want [.ok p, .ok q, .ok [b]] (latchEvents h cmd b) k :=
  hk ▸ .decided p q b

theorem latchVerdict_ok {want : Bool} {b : Byte} (hb : b.getLsbD 1 = want) : latchVerdict want b = .ok := if_pos hb

theorem latchVerdict_regVerify {want : Bool} {b : Byte} (hb : b.getLsbD 1 ≠ want) :
    latchVerdict want b = .regVerify := if_neg hb

section

variable {h : Handle} {cmd : Header} {want : Bool} {as : List Answer} {tr : List Event} {k : ResultKind}

theorem LatchPath.never_not_mem (hl : LatchPath h cmd want as tr k) : Answer.never ∉ as := by
  cases hl <;> simp

/-- What the answers of a path make of the latch sequence; of its scratch only the status byte is touched. -/
theorem LatchPath.latchSeq (hl : LatchPath h cmd want as tr k) {s : State} {rest : List Answer}
    (hs : s.OracleSays as rest) :
    ∃ x, latchSeq h cmd want s = (k, { s.afterWindow tr rest with srTmp := x }) := by
  cases hl with
  | commandFailed =>
    refine ⟨s.srTmp, ?_⟩
    rw [Machine.latchSeq, window_busTx_fail hs]
    rfl
  | statusFailed p => exact ⟨_, latchSeq_of_command hs fun _ hu => readStatusSeq_txFail hu h⟩
  | receiveFailed p q => exact ⟨_, latchSeq_of_command hs fun _ hu => readStatusSeq_rxFail hu h⟩
  | decided p q b => exact ⟨_, latchSeq_of_command hs fun _ hu => readStatusSeq_ok hu h⟩

/-- `WRITE_ENABLE` and `WRITE_DISABLE` alike: an operation that is one latch sequence ends as that does. -/
theorem LatchPath.settle_complete (hl : LatchPath h cmd want as tr k) {s : State} {rest : List Answer}
    (hs : s.OracleSays as rest) (i : Instr) :
    settle s ((Machine.latchSeq h cmd want (s.begin i)).2.complete (Machine.latchSeq h cmd want (s.begin i)).1) =
      .next (ended i s tr rest k) := by
  obtain ⟨x, hseq⟩ := hl.latchSeq (s := s.begin i) hs
  rw [hseq]
  exact settle_of_oracle hs hl.never_not_mem rfl

end

theorem exec_writeEnable_of_path {s : State} {h : Handle} {as rest : List Answer} {tr : List Event} {k : ResultKind}
    (hr : s.Ready h) (hs : s.OracleSays as rest) (hl : LatchPath h .writeEnable true as tr k) :
    exec .writeEnable s = .next (ended .writeEnable s tr rest k) :=
  (withIdleHandle_of_ready hr _).trans (hl.settle_complete hs _)

theorem exec_writeDisable_of_path {s : State} {h : Handle} {as rest : List Answer} {tr : List Event} {k : ResultKind}
    (hr : s.Ready h) (hs : s.OracleSays as rest) (hl : LatchPath h .writeDisable false as tr k) :
    exec .writeDisable s = .next (ended .writeDisable s tr rest k) :=
  (withIdleHandle_of_ready hr _).trans (hl.settle_complete hs _)

/-- Settles O26: one path of the latch sequence for each list of answers. -/
theorem writeEnableOutcomes : Obligations.WriteEnableOutcomes := by
  unfold Obligations.WriteEnableOutcomes
  intro s h rest p q b hr
  refine ⟨fun hs => ?_, fun hs => ?_, fun hs => ?_, fun hs => ?_⟩
  · exact exec_writeEnable_of_path hr hs (.decided p q b)
  · exact exec_writeEnable_of_path hr hs .commandFailed
  · exact exec_writeEnable_of_path hr hs (.statusFailed p)
  · exact exec_writeEnable_of_path hr hs (.receiveFailed p q)

/-- Settles O27: one path of the latch sequence for each list of answers. -/
theorem writeDisableOutcomes : Obligations.WriteDisableOutcomes := by
  unfold Obligations.WriteDisableOutcomes
  intro s h rest p q b hr
  refine ⟨fun hs => ?_, fun hs => ?_, fun hs => ?_, fun hs => ?_⟩
  · exact exec_writeDisable_of_path hr hs (.decided p q b)
  · exact exec_writeDisable_of_path hr hs .commandFailed
  · exact exec_writeDisable_of_path hr hs (.statusFailed p)
  · exact exec_writeDisable_of_path hr hs (.receiveFailed p q)

end Sys2Proof.Machine

/-! ## `READ_DATA` after its write-enable (R130, R131, R135) -/

namespace Sys2Proof.Machine

open Sys2Proof

/-- The header of a read carries the low three bytes of `ADDR`, most significant first (R76). -/
theorem bytes_readBytes_addr24 (a : Word32) : Header.bytes (.readBytes (addr24 a)) =
    [0x03, a.extractLsb' 16 8, a.extractLsb' 8 8, a.extractLsb' 0 8] := by
  simp [Header.bytes, Header.opcode, be24, extractLsb'_addr24]

/-- Where the read frame delivers `x` after the events `tr`, `READ_DATA` ends with `x` in `RXBUF` (R135). -/
theorem runReadFrame_of_window {h : Handle} {a n : Word32} {u : State} {rest : List Answer} {tr : List Event}
    {x : Option (List Byte)}
    (hw : window h (sendReceive h (Header.bytes (.readBytes (addr24 a))) n.toNat)
        { u with hdr := some (Header.bytes (.readBytes (addr24 a))) } =
      (x, { u with hdr := some (Header.bytes (.readBytes (addr24 a))) }.afterWindow tr rest)) :
    runReadFrame h a n u =
      { u.afterWindow tr rest with rxbuf := x }.complete (x.elim .comm fun _ => .ok) := by
  rw [runReadFrame, memRead, hw]
  cases x <;> rfl

section

variable {s : State} {h : Handle} {a n : Word32} {as rest : List Answer} {tr : List Event} {k : ResultKind}

theorem exec_readData_of_ready (hr : s.Ready h) (ha : s.addr = some a) (hn : s.len = some n) :
    exec .readData s = settle s (runReadData h a n (s.begin .readData)) :=
  (withIdleHandle_of_ready hr _).trans (withAddrLen_eq ha hn _)

/-- A write-enable that is not `OK` ends the read with its kind, before the read frame (R113). -/
theorem exec_readData_of_latchFailure (hr : s.Ready h) (ha : s.addr = some a) (hn : s.len = some n)
    (hpre : s.readPreWren = true) (hs : s.OracleSays as rest) (hl : LatchPath h .writeEnable true as tr k)
    (hk : k ≠ .ok) :
    exec .readData s = .next { ended .readData s tr rest k with rxbuf := none } := by
  obtain ⟨x, hseq⟩ := hl.latchSeq (s := s.begin .readData) hs
  have hrun : runReadData h a n (s.begin .readData) = { ended .readData s tr rest k with rxbuf := none } := by
    simp only [runReadData, State.begin_readPreWren, hpre, writeEnableSeq, hseq, hk, if_true, if_false]
    rfl
  rw [exec_readData_of_ready hr ha hn, hrun, settle_of_oracle hs hl.never_not_mem rfl]

/-- After a verified write-enable the read ends as its one window says: the bytes in `RXBUF`, or `COMM` (R132). -/
theorem exec_readData_of_latched {as' : List Answer} {tr' : List Event} {x : Option (List Byte)} (hr : s.Ready h)
    (ha : s.addr = some a) (hn : s.len = some n) (hpre : s.readPreWren = true)
    (hs : s.OracleSays (as ++ as') rest) (hl : LatchPath h .writeEnable true as tr .ok) (has' : Answer.never ∉ as')
    (hw : ∀ u : State, u.OracleSays as' rest →
      window h (sendReceive h (Header.bytes (.readBytes (addr24 a))) n.toNat) u = (x, u.afterWindow tr' rest)) :
    exec .readData s =
      .next { ended .readData s (tr ++ tr') rest (x.elim .comm fun _ => .ok) with rxbuf := x } := by
  obtain ⟨y, hseq⟩ := hl.latchSeq (s := s.begin .readData) (rest := as' ++ rest) ⟨hs.1, by simp [hs.2]⟩
  have hframe := runReadFrame_of_window (u := { (s.begin .readData).afterWindow tr (as' ++ rest) with srTmp := y })
    (hw _ ⟨hs.1, rfl⟩)
  have hrun : runReadData h a n (s.begin .readData) =
      { ended .readData s (tr ++ tr') rest (x.elim .comm fun _ => .ok) with rxbuf := x } := by
    simp only [runReadData, State.begin_readPreWren, hpre, writeEnableSeq, hseq, hframe, if_true]
    simp [State.complete, State.toIdle, State.afterWindow, ended, State.begin]
  rw [exec_readData_of_ready hr ha hn, hrun, settle_of_oracle hs (by simp [hl.never_not_mem, has']) rfl]

end

/-- Settles O33: the four paths that the latch sequence ends, and the three windows that can follow it. -/
theorem readDataOutcomesWithWriteEnable : Obligations.ReadDataOutcomesWithWriteEnable := by
  unfold Obligations.ReadDataOutcomesWithWriteEnable
  intro s h a n rest p q r bs b hr ha hn hpre
  rw [← bytes_readBytes_addr24]
  refine ⟨fun hs hb hlen => ?_, fun hs hb => ?_, fun hs hb => ?_, fun hs => ?_, fun hs => ?_, fun hs => ?_,
    fun hs hb => ?_⟩
  · exact exec_readData_of_latched (as := [.ok p, .ok q, .ok [b]]) (as' := [.ok r, .ok bs]) hr ha hn hpre hs
      (.decided_as (latchVerdict_ok hb) p q) (by simp) fun u hu => hlen ▸ window_sendReceive_ok hu h _
  · exact exec_readData_of_latchFailure hr ha hn hpre hs
      (.decided_as (latchVerdict_regVerify (hb ▸ Bool.false_ne_true)) p q) (by simp)
  · exact exec_readData_of_latched (as := [.ok p, .ok q, .ok [b]]) (as' := [.ok r, .fail]) hr ha hn hpre hs
      (.decided_as (latchVerdict_ok hb) p q) (by simp) fun u hu => window_sendReceive_rxFail hu h _ _
  · exact exec_readData_of_latchFailure hr ha hn hpre hs .commandFailed (by simp)
  · exact exec_readData_of_latchFailure hr ha hn hpre hs (.statusFailed p) (by simp)
  · exact exec_readData_of_latchFailure hr ha hn hpre hs (.receiveFailed p q) (by simp)
  · exact exec_readData_of_latched (as := [.ok p, .ok q, .ok [b]]) (as' := [.fail]) hr ha hn hpre hs
      (.decided_as (latchVerdict_ok hb) p q) (by simp) fun u hu => window_sendReceive_txFail hu h _ _

end Sys2Proof.Machine

/-! ## An erase or program frame follows a verified write-enable (R112) -/

namespace Sys2Proof.Machine

open Sys2Proof

/-- A transmit whose first byte is the erase or the program opcode. -/
def Event.mutates (e : Event) : Bool := e.sends 0x60 || e.sends 0x02

/-- The events `tr` mutate nothing, or begin with a verified write-enable. -/
def MutatesOnlyAfterLatch (h : Handle) (tr : List Event) : Prop :=
  tr.any Event.mutates = false ∨
    ∃ b : Byte, b.getLsbD 1 = true ∧ latchEvents h .writeEnable b <+: tr

/-- What a list begins with, and `e` is none of, it has begun with before `e`. -/
theorem isPrefix_of_not_mem {α : Type} {l before after : List α} {e : α} (hl : l <+: before ++ e :: after)
    (he : e ∉ l) : l <+: before := by
  obtain ⟨rest, hrest⟩ := hl
  rcases List.append_eq_append_iff.1 hrest with ⟨m, hbefore, -⟩ | ⟨m, hlong, hm⟩
  · exact ⟨m, hbefore.symm⟩
  · cases m with
    | nil => exact ⟨[], by simpa using hlong⟩
    | cons x m =>
      obtain ⟨rfl, -⟩ := List.cons.inj hm
      exact absurd (by simp [hlong]) he

/-- The two commands of the latch protocol. -/
def IsLatchCommand (cmd : Header) : Prop := cmd = .writeEnable ∨ cmd = .writeDisable

theorem mutates_latchEvents {cmd : Header} (hc : IsLatchCommand cmd) (h : Handle) (b : Byte) :
    (latchEvents h cmd b).any Event.mutates = false := by
  rcases hc with rfl | rfl <;> rfl

theorem mutates_of_mem_latchFailures {h : Handle} {cmd : Header} {tr : List Event} (hc : IsLatchCommand cmd)
    (htr : tr ∈ latchFailures h cmd) : tr.any Event.mutates = false := by
  simp only [latchFailures, List.mem_cons, List.not_mem_nil, or_false] at htr
  rcases htr with rfl | rfl | rfl <;> rcases hc with rfl | rfl <;> rfl

theorem mutatesOnlyAfterLatch_append {h : Handle} {b : Byte} (hb : b.getLsbD 1 = true) (tr : List Event) :
    MutatesOnlyAfterLatch h (latchEvents h .writeEnable b ++ tr) :=
  .inr ⟨b, hb, tr, rfl⟩

/-- The events of each operation, path by path: only `CHIP_ERASE` and `PAGE_PROGRAM` mutate, and both after their
latch. -/
theorem exec_mutatesOnlyAfterLatch {i : Instr} {s t : State} (he : exec i s = .next t) :
    ∃ h, s.HasHandle h ∧ MutatesOnlyAfterLatch h (newEvents s t) := by
  have hwe : IsLatchCommand .writeEnable := .inl rfl
  cases i with
  | csAssert =>
    obtain ⟨h, hr, rfl⟩ := execCsAssert_spec he
    exact ⟨h, hr.2, .inl (by simp [newEvents, Event.mutates, Event.sends])⟩
  | csDeassert =>
    obtain ⟨h, hr, rfl⟩ := execCsDeassert_spec he
    exact ⟨h, hr.2, .inl (by simp [newEvents, Event.mutates, Event.sends])⟩
  | verifyId =>
    obtain ⟨h, hr, -, -, -, hw | hw | ⟨b, -, hw⟩⟩ := execVerifyId_cases he <;>
      exact ⟨h, hr.2, .inl (by rw [hw.newEvents]; rfl)⟩
  | readStatus =>
    obtain ⟨h, hr, -, -, ⟨-, hw⟩ | ⟨-, hw⟩ | ⟨b, -, hw⟩⟩ := execReadStatus_cases he <;>
      exact ⟨h, hr.2, .inl (by rw [hw.newEvents]; rfl)⟩
  | writeEnable =>
    obtain ⟨h, hr, -, -, -, ⟨tr, hm, hw⟩ | ⟨b, hw⟩⟩ := execWriteEnable_cases he <;>
      refine ⟨h, hr.2, .inl ?_⟩ <;> rw [hw.newEvents]
    · exact mutates_of_mem_latchFailures hwe hm
    · exact mutates_latchEvents hwe h b
  | writeDisable =>
    obtain ⟨h, hr, -, -, -, ⟨tr, hm, hw⟩ | ⟨b, hw⟩⟩ := execWriteDisable_cases he <;>
      refine ⟨h, hr.2, .inl ?_⟩ <;> rw [hw.newEvents]
    · exact mutates_of_mem_latchFailures (.inr rfl) hm
    · exact mutates_latchEvents (.inr rfl) h b
  | chipErase =>
    obtain ⟨h, hr, -, -, -, ⟨tr, hm, hw⟩ | ⟨b, -, hw⟩ | ⟨b, ok, hb, hw⟩⟩ := execChipErase_cases he <;>
      refine ⟨h, hr.2, ?_⟩ <;> rw [hw.newEvents]
    · exact .inl (mutates_of_mem_latchFailures hwe hm)
    · exact .inl (mutates_latchEvents hwe h b)
    · exact mutatesOnlyAfterLatch_append hb _
  | pageProgram =>
    obtain ⟨h, a, n, hr, -, -, -, -, ⟨-, rfl⟩ |
      ⟨v, -, -, -, ⟨tr, hm, -, hw⟩ | ⟨b, -, -, hw⟩ | ⟨b, hb, -, hw⟩ | ⟨b, ok, hb, -, hw⟩⟩⟩ :=
      execPageProgram_cases he <;>
      refine ⟨h, hr.2, ?_⟩
    · exact .inl (by simp [newEvents])
    all_goals rw [hw.newEvents]
    · exact .inl (mutates_of_mem_latchFailures hwe hm)
    · exact .inl (mutates_latchEvents hwe h b)
    · exact mutatesOnlyAfterLatch_append hb _
    · exact mutatesOnlyAfterLatch_append hb _
  | readData =>
    obtain ⟨h, a, n, hr, -, -, -, -, ⟨-, -, tr, hm, hw⟩ | ⟨-, -, b, -, hw⟩ | ⟨pre, hpre, hc⟩⟩ :=
      execReadData_cases he <;>
      refine ⟨h, hr.2, .inl ?_⟩
    · rw [hw.newEvents]
      exact mutates_of_mem_latchFailures hwe hm
    · rw [hw.newEvents]
      exact mutates_latchEvents hwe h b
    · have hquiet : pre.any Event.mutates = false := by
        rcases hpre with ⟨-, b, -, rfl⟩ | ⟨-, rfl⟩
        · exact mutates_latchEvents hwe h b
        · rfl
      rcases hc with ⟨-, hw⟩ | ⟨-, hw⟩ | ⟨b, -, -, hw⟩ <;> rw [hw.newEvents, List.any_append, hquiet] <;> rfl

/-- Settles O47: the mutating event is none of the latch events the trace begins with, so these come before it. -/
theorem mutatingFramesFollowVerifiedLatch : Obligations.MutatingFramesFollowVerifiedLatch := by
  unfold Obligations.MutatingFramesFollowVerifiedLatch
  intro i s t he before after e hsplit hsends
  have hmut : e.mutates = true := by simpa [Event.mutates] using hsends
  obtain ⟨h, hh, hafter⟩ := exec_mutatesOnlyAfterLatch he
  rw [hsplit] at hafter
  rcases hafter with hnone | ⟨b, hb, hbegins⟩
  · simp [hmut] at hnone
  · have hquiet : ∀ x ∈ latchEvents h .writeEnable b, ¬ x.mutates = true :=
      List.any_eq_false.1 (mutates_latchEvents (.inl rfl) h b)
    exact ⟨h, b, hh, hb, isPrefix_of_not_mem hbegins fun hmem => hquiet e hmem hmut⟩

end Sys2Proof.Machine

/-! ## `CHIP_ERASE`: the erase frame after its write-enable (R113, R117) -/

namespace Sys2Proof.Machine

open Sys2Proof

section

variable {s : State} {h : Handle} {as rest : List Answer} {tr : List Event} {k : ResultKind}

theorem exec_chipErase_of_ready (hr : s.Ready h) :
    exec .chipErase s = settle s (runChipErase h (s.begin .chipErase)) :=
  withIdleHandle_of_ready hr _

/-- A write-enable that is not `OK` ends the erase with its kind, before the erase frame (R113). -/
theorem exec_chipErase_of_latchFailure (hr : s.Ready h) (hs : s.OracleSays as rest)
    (hl : LatchPath h .writeEnable true as tr k) (hk : k ≠ .ok) :
    exec .chipErase s = .next (ended .chipErase s tr rest k) := by
  obtain ⟨x, hseq⟩ := hl.latchSeq (s := s.begin .chipErase) hs
  have hrun : runChipErase h (s.begin .chipErase) = ended .chipErase s tr rest k := by
    simp only [runChipErase, writeEnableSeq, hseq, hk, if_false]
    rfl
  rw [exec_chipErase_of_ready hr, hrun, settle_of_oracle hs hl.never_not_mem rfl]

/-- After a verified write-enable the erase ends as its one transmit says: `OK`, or `COMM` (R117). -/
theorem exec_chipErase_of_latched {as' : List Answer} {tr' : List Event} {sent : Bool} (hr : s.Ready h)
    (hs : s.OracleSays (as ++ as') rest) (hl : LatchPath h .writeEnable true as tr .ok) (has' : Answer.never ∉ as')
    (hw : ∀ u : State, u.OracleSays as' rest →
      window h (State.busTx h (Header.bytes .chipErase)) u = (sent, u.afterWindow tr' rest)) :
    exec .chipErase s = .next (ended .chipErase s (tr ++ tr') rest (if sent then .ok else .comm)) := by
  obtain ⟨x, hseq⟩ := hl.latchSeq (s := s.begin .chipErase) (rest := as' ++ rest) ⟨hs.1, by simp [hs.2]⟩
  have hframe := hw { (s.begin .chipErase).afterWindow tr (as' ++ rest) with srTmp := x } ⟨hs.1, rfl⟩
  have hrun : runChipErase h (s.begin .chipErase) =
      ended .chipErase s (tr ++ tr') rest (if sent then .ok else .comm) := by
    simp only [runChipErase, writeEnableSeq, hseq, hframe, if_true]
    cases sent <;> simp [State.raise, State.complete, State.toIdle, State.afterWindow, ended, State.begin]
  rw [exec_chipErase_of_ready hr, hrun, settle_of_oracle hs (by simp [hl.never_not_mem, has']) rfl]

end

/-- Settles O28: the two answers to the erase frame after a verified latch, and the four paths of the latch sequence
that end the operation before that frame. -/
theorem chipEraseOutcomes : Obligations.ChipEraseOutcomes := by
  unfold Obligations.ChipEraseOutcomes
  intro s h rest p q r b hr
  refine ⟨fun hs hb => ?_, fun hs hb => ?_, fun hs hb => ?_, fun hs => ?_, fun hs => ?_, fun hs => ?_⟩
  · exact exec_chipErase_of_latched (as := [.ok p, .ok q, .ok [b]]) (as' := [.ok r]) hr hs
      (.decided_as (latchVerdict_ok hb) p q) (by simp) fun u hu => window_busTx_ok hu h _
  · exact exec_chipErase_of_latchFailure hr hs
      (.decided_as (latchVerdict_regVerify (hb ▸ Bool.false_ne_true)) p q) (by simp)
  · exact exec_chipErase_of_latched (as := [.ok p, .ok q, .ok [b]]) (as' := [.fail]) hr hs
      (.decided_as (latchVerdict_ok hb) p q) (by simp) fun u hu => window_busTx_fail hu h _
  · exact exec_chipErase_of_latchFailure hr hs .commandFailed (by simp)
  · exact exec_chipErase_of_latchFailure hr hs (.statusFailed p) (by simp)
  · exact exec_chipErase_of_latchFailure hr hs (.receiveFailed p q) (by simp)

end Sys2Proof.Machine

/-! ## `PAGE_PROGRAM`: its checks, its frame and the advance of `ADDR` (R121 to R126) -/

namespace Sys2Proof.Machine

open Sys2Proof

theorem encode_pageProgram : encode .pageProgram = 8 := rfl

/-! ### The parameter checks (R121, R122) -/

theorem badParams_iff (a n : Word32) : BadParams a n ↔ 256 < n.toNat ∨ (n.toNat = 256 ∧ a.toNat % 256 ≠ 0) := by
  rw [BadParams, lengthError_iff, alignError_iff]

/-- A failed check ends the operation in `PARAM` before any event; the payload is not read (R13, R121, R122). -/
theorem exec_pageProgram_of_badParams {s : State} {h : Handle} {a n : Word32} (hr : s.Ready h) (ha : s.addr = some a)
    (hn : s.len = some n) (hb : BadParams a n) :
    exec .pageProgram s = .next ((s.begin .pageProgram).raise .param) :=
  (withIdleHandle_of_ready hr _).trans (withProgramParams_bad ha hn hb _ _)

/-- Settles O29: what the abort path leaves of a state that only the start of the operation has touched. -/
theorem pageProgramRejectsBadParameters : Obligations.PageProgramRejectsBadParameters := by
  unfold Obligations.PageProgramRejectsBadParameters
  intro s h a n hr ha hn hbad
  rw [exec_pageProgram_of_badParams hr ha hn ((badParams_iff a n).2 hbad), ← encode_pageProgram]
  rfl

/-! ### The program frame answered by the oracle (R124) -/

/-- The header of a program frame carries the low three bytes of `ADDR`, most significant first (R76). -/
theorem bytes_pageProgram_addr24 (a : Word32) : Header.bytes (.pageProgram (addr24 a)) =
    [0x02, a.extractLsb' 16 8, a.extractLsb' 8 8, a.extractLsb' 0 8] := by
  simp [Header.bytes, Header.opcode, be24, extractLsb'_addr24]

section

variable {s : State} {rest : List Answer}

/-- A failed header closes the window without a payload. -/
theorem window_sendSend_headerFail (hs : s.OracleSays [.fail] rest) (h : Handle) (hdr v : List Byte) :
    window h (sendSend h hdr v) s = (false, s.afterWindow
      [.cs h.csLine .low, .tx h.bus h.timeout hdr false, .cs h.csLine .high] rest) := by
  obtain ⟨henv, hscript⟩ := hs
  simp [window, sendSend, State.busTx, csSet_of_oracle, Transport.tx_oracle henv hscript, henv, State.afterWindow]

theorem window_sendSend_payloadFail {p : List Byte} (hs : s.OracleSays [.ok p, .fail] rest) (h : Handle)
    (hdr v : List Byte) :
    window h (sendSend h hdr v) s = (false, s.afterWindow
      [.cs h.csLine .low, .tx h.bus h.timeout hdr true, .tx h.bus h.timeout v false, .cs h.csLine .high] rest) := by
  obtain ⟨henv, hscript⟩ := hs
  simp [window, sendSend, State.busTx, csSet_of_oracle, Transport.tx_oracle henv hscript,
    Transport.tx_oracle (a := .fail), henv, State.afterWindow]

theorem window_sendSend_ok {p q : List Byte} (hs : s.OracleSays [.ok p, .ok q] rest) (h : Handle)
    (hdr v : List Byte) :
    window h (sendSend h hdr v) s = (true, s.afterWindow
      [.cs h.csLine .low, .tx h.bus h.timeout hdr true, .tx h.bus h.timeout v true, .cs h.csLine .high] rest) := by
  obtain ⟨henv, hscript⟩ := hs
  simp [window, sendSend, State.busTx, csSet_of_oracle, Transport.tx_oracle henv hscript,
    Transport.tx_oracle (a := .ok q), henv, State.afterWindow]

end

/-! ### The operation with good parameters (R123 to R125) -/

/-- The block is ready and `PAGE_PROGRAM`'s operands are good: both checks pass and the payload is `v` (R13). -/
structure State.ReadyToProgram (s : State) (h : Handle) (a n : Word32) (v : List Byte) : Prop where
  ready : s.Ready h
  addr : s.addr = some a
  len : s.len = some n
  params : ¬ BadParams a n
  payload : cellSlice s.txbuf 0 n.toNat = some v

section

variable {s : State} {h : Handle} {a n : Word32} {v : List Byte} {as rest : List Answer} {tr : List Event}
  {k : ResultKind}

theorem State.ReadyToProgram.exec_eq_settle (hp : s.ReadyToProgram h a n v) :
    exec .pageProgram s = settle s (runPageProgram h a n v (s.begin .pageProgram)) := by
  obtain ⟨hlen, halign⟩ := not_or.1 hp.params
  calc exec .pageProgram s
      = withProgramParams s (.next ((s.begin .pageProgram).raise .param)) fun a n =>
          withPayload s n fun v => settle s (runPageProgram h a n v (s.begin .pageProgram)) :=
        withIdleHandle_of_ready hp.ready _
    _ = withPayload s n fun v => settle s (runPageProgram h a n v (s.begin .pageProgram)) :=
        withProgramParams_good hp.addr hp.len (by simpa using hlen) (by simpa using halign) _ _
    _ = settle s (runPageProgram h a n v (s.begin .pageProgram)) := withPayload_eq hp.payload _

/-- A write-enable that is not `OK` ends the operation with its kind, before the program frame (R113, R123). -/
theorem State.ReadyToProgram.exec_of_latchFailure (hp : s.ReadyToProgram h a n v) (hs : s.OracleSays as rest)
    (hl : LatchPath h .writeEnable true as tr k) (hk : k ≠ .ok) :
    exec .pageProgram s = .next (ended .pageProgram s tr rest k) := by
  obtain ⟨x, hseq⟩ := hl.latchSeq (s := s.begin .pageProgram) hs
  have hrun : runPageProgram h a n v (s.begin .pageProgram) = ended .pageProgram s tr rest k := by
    simp only [runPageProgram, writeEnableSeq, hseq, hk, if_false]
    rfl
  rw [hp.exec_eq_settle, hrun, settle_of_oracle hs hl.never_not_mem rfl]

/-- After a verified write-enable the operation ends as its program frame says: `OK` with `ADDR` advanced, or `COMM`
with `ADDR` as it was (R124, R125). -/
theorem State.ReadyToProgram.exec_of_latched {as' : List Answer} {tr' : List Event} {sent : Bool}
    (hp : s.ReadyToProgram h a n v) (hs : s.OracleSays (as ++ as') rest)
    (hl : LatchPath h .writeEnable true as tr .ok) (has' : Answer.never ∉ as')
    (hw : ∀ u : State, u.OracleSays as' rest →
      window h (sendSend h (Header.bytes (.pageProgram (addr24 a))) v) u = (sent, u.afterWindow tr' rest)) :
    exec .pageProgram s = .next { ended .pageProgram s (tr ++ tr') rest (if sent then .ok else .comm) with
      addr := if sent then some (a + n) else s.addr } := by
  obtain ⟨x, hseq⟩ := hl.latchSeq (s := s.begin .pageProgram) (rest := as' ++ rest) ⟨hs.1, by simp [hs.2]⟩
  have hframe := hw { (s.begin .pageProgram).afterWindow tr (as' ++ rest) with
    srTmp := x, hdr := some (Header.bytes (.pageProgram (addr24 a))) } ⟨hs.1, rfl⟩
  have hrun : runPageProgram h a n v (s.begin .pageProgram) =
      { ended .pageProgram s (tr ++ tr') rest (if sent then .ok else .comm) with
        addr := if sent then some (a + n) else s.addr } := by
    simp only [runPageProgram, writeEnableSeq, hseq, memWrite, hframe, if_true]
    cases sent <;> simp [State.raise, State.complete, State.toIdle, State.afterWindow, ended, State.begin]
  rw [hp.exec_eq_settle, hrun, settle_of_oracle hs (by simp [hl.never_not_mem, has']) rfl]

end

/-- Settles O31: the three program windows that can follow a verified latch, and the four paths of the latch sequence
that end the operation before its frame. -/
theorem pageProgramOutcomes : Obligations.PageProgramOutcomes := by
  unfold Obligations.PageProgramOutcomes
  intro s h a n v rest p q r u b hr ha hn hvl hv hlen halign
  have hp : s.ReadyToProgram h a n v := {
    ready := hr, addr := ha, len := hn
    params := fun hbad => ((badParams_iff a n).1 hbad).elim hlen halign
    payload := (payloadIsTxbufInIndexOrder _ _ _).2 ⟨hvl, hv⟩ }
  rw [← bytes_pageProgram_addr24]
  refine ⟨fun hs hb => ?_, fun hs hb => ?_, fun hs hb => ?_, fun hs hb => ?_, fun hs => ?_, fun hs => ?_, fun hs => ?_⟩
  · exact hp.exec_of_latched (as := [.ok p, .ok q, .ok [b]]) (as' := [.ok r, .ok u]) hs
      (.decided_as (latchVerdict_ok hb) p q) (by simp) fun w hw => window_sendSend_ok hw h _ v
  · exact hp.exec_of_latched (as := [.ok p, .ok q, .ok [b]]) (as' := [.ok r, .fail]) hs
      (.decided_as (latchVerdict_ok hb) p q) (by simp) fun w hw => window_sendSend_payloadFail hw h _ v
  · exact hp.exec_of_latched (as := [.ok p, .ok q, .ok [b]]) (as' := [.fail]) hs
      (.decided_as (latchVerdict_ok hb) p q) (by simp) fun w hw => window_sendSend_headerFail hw h _ v
  · exact hp.exec_of_latchFailure hs (.decided_as (latchVerdict_regVerify (hb ▸ Bool.false_ne_true)) p q) (by simp)
  · exact hp.exec_of_latchFailure hs .commandFailed (by simp)
  · exact hp.exec_of_latchFailure hs (.statusFailed p) (by simp)
  · exact hp.exec_of_latchFailure hs (.receiveFailed p q) (by simp)

/-! ### The advance of `ADDR`, whatever the transport did (R125, R126) -/

/-- `ADDR` is advanced together with the result `OK`, and is left alone together with every other. -/
theorem exec_pageProgram_addr {s t : State} (he : exec .pageProgram s = .next t) :
    (∃ a n, s.addr = some a ∧ s.len = some n ∧ t.result = some .ok ∧ t.addr = some (a + n)) ∨
      (t.result ≠ some .ok ∧ t.addr = s.addr) := by
  obtain ⟨h, a, n, -, ha, hn, -, -, ⟨-, rfl⟩ | ⟨v, -, -, -, hpath⟩⟩ := execPageProgram_cases he
  · exact .inr ⟨by simp, rfl⟩
  rcases hpath with ⟨tr, -, haddr, hw⟩ | ⟨b, -, haddr, hw⟩ | ⟨b, -, haddr, hw⟩ | ⟨b, ok, -, haddr, hw⟩
  · exact .inr ⟨by simp [hw.result], haddr⟩
  · exact .inr ⟨by simp [hw.result], haddr⟩
  · exact .inr ⟨by simp [hw.result], haddr⟩
  · cases ok with
    | false => exact .inr ⟨by simp [hw.result], haddr⟩
    | true => exact .inl ⟨a, n, ha, hn, hw.result, haddr⟩

/-- Settles O39: the result tells the two cases apart, and the sum of two words is the sum of their numbers modulo
2^32. -/
theorem addressAdvancesOnlyOnOk : Obligations.AddressAdvancesOnlyOnOk := by
  unfold Obligations.AddressAdvancesOnlyOnOk
  intro s t he
  rcases exec_pageProgram_addr he with ⟨a, n, ha, hn, hok, haddr⟩ | ⟨hne, haddr⟩
  · exact ⟨fun _ => ⟨a, n, ha, hn, haddr.trans (congrArg some (BitVec.add_def a n))⟩, fun hne => absurd hok hne⟩
  · exact ⟨fun hok => absurd hok hne, fun _ => haddr⟩

end Sys2Proof.Machine

/-! ## `READ_DATA` without its write-enable, and what it leaves in `RXBUF` (R132, R135) -/

namespace Sys2Proof.Machine

open Sys2Proof

/-- Without a write-enable the read ends as its one window says: the bytes in `RXBUF`, or `COMM` (R131, R132). -/
theorem exec_readData_of_window {s : State} {h : Handle} {a n : Word32} {as rest : List Answer} {tr : List Event}
    {x : Option (List Byte)} (hr : s.Ready h) (ha : s.addr = some a) (hn : s.len = some n)
    (hpre : s.readPreWren = false) (hs : s.OracleSays as rest) (has : Answer.never ∉ as)
    (hw : ∀ u : State, u.OracleSays as rest →
      window h (sendReceive h (Header.bytes (.readBytes (addr24 a))) n.toNat) u = (x, u.afterWindow tr rest)) :
    exec .readData s = .next { ended .readData s tr rest (x.elim .comm fun _ => .ok) with rxbuf := x } := by
  have hrun : runReadData h a n (s.begin .readData) =
      { ended .readData s tr rest (x.elim .comm fun _ => .ok) with rxbuf := x } := by
    simp only [runReadData, State.begin_readPreWren, hpre, Bool.false_eq_true, if_false]
    exact runReadFrame_of_window (hw _ hs)
  rw [exec_readData_of_ready hr ha hn, hrun, settle_of_oracle hs has rfl]

/-- Settles O32: the one window of the read under each of the three answer lists. -/
theorem readDataOutcomesWithoutWriteEnable : Obligations.ReadDataOutcomesWithoutWriteEnable := by
  unfold Obligations.ReadDataOutcomesWithoutWriteEnable
  intro s h a n rest p bs hr ha hn hpre
  rw [← bytes_readBytes_addr24]
  refine ⟨fun hs hlen => ?_, fun hs => ?_, fun hs => ?_⟩
  · exact exec_readData_of_window hr ha hn hpre hs (by simp) fun u hu => hlen ▸ window_sendReceive_ok hu h _
  · exact exec_readData_of_window hr ha hn hpre hs (by simp) fun u hu => window_sendReceive_txFail hu h _ _
  · exact exec_readData_of_window hr ha hn hpre hs (by simp) fun u hu => window_sendReceive_rxFail hu h _ _

/-- `RXBUF` receives its `LEN` bytes together with the result `OK`, and loses its value together with every other. -/
theorem exec_readData_rxbuf {s t : State} (he : exec .readData s = .next t) :
    (∃ n b, s.len = some n ∧ b.length = n.toNat ∧ t.result = some .ok ∧ t.rxbuf = some b) ∨
      (t.result ≠ some .ok ∧ t.rxbuf = none) := by
  obtain ⟨h, a, n, -, -, hn, -, -, ⟨-, hnone, tr, -, hw⟩ | ⟨-, hnone, b, -, hw⟩ | ⟨pre, -, hframe⟩⟩ :=
    execReadData_cases he
  · exact .inr ⟨by simp [hw.result], hnone⟩
  · exact .inr ⟨by simp [hw.result], hnone⟩
  · rcases hframe with ⟨hnone, hw⟩ | ⟨hnone, hw⟩ | ⟨b, hlen, hsome, hw⟩
    · exact .inr ⟨by simp [hw.result], hnone⟩
    · exact .inr ⟨by simp [hw.result], hnone⟩
    · exact .inl ⟨n, b, hn, hlen, hw.result, hsome⟩

/-- Settles O40: the result tells the two cases apart. -/
theorem readDataFillsExactlyLen : Obligations.ReadDataFillsExactlyLen := by
  unfold Obligations.ReadDataFillsExactlyLen
  intro s t n hn he
  rcases exec_readData_rxbuf he with ⟨m, b, hm, hlen, hok, hsome⟩ | ⟨hne, hnone⟩
  · obtain rfl : n = m := Option.some.inj (hn.symm.trans hm)
    exact ⟨fun _ => ⟨b, hsome, hlen⟩, fun hne => absurd hok hne⟩
  · exact ⟨fun hok => absurd hok hne, fun _ => hnone⟩

end Sys2Proof.Machine

/-! ## Phase and result codes, and the stuck operation (R140, R150, R161, R173) -/

namespace Sys2Proof.Machine

open Sys2Proof

/-! ### Codes (R140, R161) -/

theorem Phase.ofCode_code (p : Phase) : Phase.ofCode p.code = p := by
  cases p <;> rfl

/-- The four bits of `SEQ` hold phase codes only. -/
theorem Phase.code_ofCode : ∀ c : BitVec 4, (Phase.ofCode c).code = c := by
  decide

theorem ResultKind.ofCode_code (k : ResultKind) : ResultKind.ofCode k.code = some k := by
  cases k <;> rfl

theorem ResultKind.ofCode_of_unused : ∀ c : BitVec 3, 5 ≤ c.toNat → ResultKind.ofCode c = none := by
  decide

/-- Settles O6: the two tables evaluated, and each code read back. -/
theorem phaseAndResultCodes : Obligations.PhaseAndResultCodes := by
  unfold Obligations.PhaseAndResultCodes
  exact ⟨rfl, rfl, Phase.ofCode_code, Phase.code_ofCode, ResultKind.ofCode_code, ResultKind.ofCode_of_unused⟩

/-! ### A first request that is never answered (R150, R173) -/

section

variable {s : State} {rest : List Answer}

/-- An operation that used up the missing answer, and left the others, is stuck. -/
theorem settle_of_never {t : State} (hs : s.OracleSays [.never] rest) (ht : t.transport.script = rest) :
    settle s t = .fault .transportSilent := by
  simp [settle, Transport.fellSilent, Transport.silences, hs.2, ht]

theorem window_busTx_never (hs : s.OracleSays [.never] rest) (h : Handle) (bytes : List Byte) :
    window h (State.busTx h bytes) s = (false, s.afterWindow
      [.cs h.csLine .low, .tx h.bus h.timeout bytes false, .cs h.csLine .high] rest) := by
  obtain ⟨henv, hscript⟩ := hs
  simp [window, State.busTx, csSet_of_oracle, Transport.tx_oracle henv hscript, henv, State.afterWindow]

theorem window_sendReceive_never (hs : s.OracleSays [.never] rest) (h : Handle) (hdr : List Byte) (n : Nat) :
    window h (sendReceive h hdr n) s = (none, s.afterWindow
      [.cs h.csLine .low, .tx h.bus h.timeout hdr false, .cs h.csLine .high] rest) := by
  obtain ⟨henv, hscript⟩ := hs
  simp [window, sendReceive, State.busTx, csSet_of_oracle, Transport.tx_oracle henv hscript, henv, State.afterWindow]

theorem latchSeq_never (hs : s.OracleSays [.never] rest) (h : Handle) (cmd : Header) (want : Bool) :
    latchSeq h cmd want s = (.comm, s.afterWindow
      [.cs h.csLine .low, .tx h.bus h.timeout cmd.bytes false, .cs h.csLine .high] rest) := by
  rw [latchSeq, window_busTx_never hs]
  rfl

theorem writeEnableSeq_never (hs : s.OracleSays [.never] rest) (h : Handle) :
    (writeEnableSeq h s).1 = .comm ∧ (writeEnableSeq h s).2.transport.script = rest := by
  rw [writeEnableSeq, latchSeq_never hs]
  exact ⟨rfl, rfl⟩

theorem runReadFrame_script_of_never (hs : s.OracleSays [.never] rest) (h : Handle) (a n : Word32) :
    (runReadFrame h a n s).transport.script = rest := by
  have hw := window_sendReceive_never (s := { s with hdr := some (Header.bytes (.readBytes (addr24 a))) }) hs h
    (Header.bytes (.readBytes (addr24 a))) n.toNat
  rw [runReadFrame, memRead, hw]
  rfl

theorem runReadData_script_of_never (hs : s.OracleSays [.never] rest) (h : Handle) (a n : Word32) :
    (runReadData h a n s).transport.script = rest := by
  obtain ⟨hk, hscript⟩ := writeEnableSeq_never hs h
  cases hpre : s.readPreWren
  · simpa [runReadData, hpre] using runReadFrame_script_of_never hs h a n
  · simp [runReadData, hpre, hk, hscript]

theorem runVerifyId_script_of_never (hs : s.OracleSays [.never] rest) (h : Handle) :
    (runVerifyId h s).transport.script = rest := by
  have hw := window_sendReceive_never (s := { s with hdr := some (Header.bytes .readId) }) hs h
    (Header.bytes .readId) 2
  rw [runVerifyId, hw]
  rfl

theorem runReadStatus_script_of_never (hs : s.OracleSays [.never] rest) (h : Handle) :
    (runReadStatus h s).transport.script = rest := by
  rw [runReadStatus, readStatusSeq, window_sendReceive_never hs]
  rfl

/-- A composite operation gives up with its write-enable, before its own frame (R113). -/
theorem runChipErase_script_of_never (hs : s.OracleSays [.never] rest) (h : Handle) :
    (runChipErase h s).transport.script = rest := by
  obtain ⟨hk, hscript⟩ := writeEnableSeq_never hs h
  simp [runChipErase, hk, hscript]

theorem runPageProgram_script_of_never (hs : s.OracleSays [.never] rest) (h : Handle) (a n : Word32)
    (v : List Byte) : (runPageProgram h a n v s).transport.script = rest := by
  obtain ⟨hk, hscript⟩ := writeEnableSeq_never hs h
  simp [runPageProgram, hk, hscript]

end

/-- Settles O35: the first request uses up the missing answer and fails, so nothing else is requested. -/
theorem stuckWhenNeverAnswered : Obligations.StuckWhenNeverAnswered := by
  unfold Obligations.StuckWhenNeverAnswered
  intro i s h rest hi hr ho hs hparams
  have hrun := withIdleHandle_of_ready hr
  have hbegin : ∀ i, (s.begin i).OracleSays [.never] rest := fun _ => hs
  cases i with
  | csAssert => cases hi
  | csDeassert => cases hi
  | verifyId => exact (hrun _).trans (settle_of_never hs (runVerifyId_script_of_never (hbegin _) h))
  | readStatus => exact (hrun _).trans (settle_of_never hs (runReadStatus_script_of_never (hbegin _) h))
  | writeEnable => exact (hrun _).trans (settle_of_never hs (writeEnableSeq_never (hbegin _) h).2)
  | writeDisable =>
    refine (hrun _).trans (settle_of_never hs ?_)
    rw [runWriteDisable, writeDisableSeq, latchSeq_never (hbegin _)]
    rfl
  | chipErase => exact (hrun _).trans (settle_of_never hs (runChipErase_script_of_never (hbegin _) h))
  | pageProgram =>
    obtain ⟨a, n, ha, hn⟩ := addrLen_of_operandsHold (.inl rfl) ho
    obtain ⟨hshort, halign⟩ := hparams rfl n hn
    obtain ⟨hl, hal⟩ : lengthError n = false ∧ alignError a n = false := by
      rw [← Bool.not_eq_true, ← Bool.not_eq_true, lengthError_iff, alignError_iff]
      exact ⟨hshort, halign a ha⟩
    obtain ⟨v, hv⟩ : ∃ v, cellSlice s.txbuf 0 n.toNat = some v := by
      simpa [State.operandsHold, ha, hn, hl, hal, Option.isSome_iff_exists] using ho
    exact (hrun _).trans ((withProgramParams_good ha hn hl hal _ _).trans ((withPayload_eq hv _).trans
      (settle_of_never hs (runPageProgram_script_of_never (hbegin _) h a n v))))
  | readData =>
    obtain ⟨a, n, ha, hn⟩ := addrLen_of_operandsHold (.inr rfl) ho
    exact (hrun _).trans ((withAddrLen_eq ha hn _).trans
      (settle_of_never hs (runReadData_script_of_never (hbegin _) h a n)))

end Sys2Proof.Machine

/-! ## What one phase does (R140 to R150) -/

namespace Sys2Proof.Machine

open Sys2Proof

/-! ### Every phase uses up answers from the front and moves forward -/

theorem Transport.tx_script_suffix (b : List Byte) (t : Transport) : (t.tx b).2.script <:+ t.script := by
  rcases t.tx_script b with h | h
  · rw [h]
  · exact h ▸ List.tail_suffix _

theorem Transport.rx_script_suffix (n : Nat) (t : Transport) : (t.rx n).2.script <:+ t.script := by
  rcases t.rx_script n with h | h
  · rw [h]
  · exact h ▸ List.tail_suffix _

/-- `SEQ` goes from `p` along an edge of R142: back to `IDLE`, or to a phase with a greater code. -/
abbrev Phase.Before (p q : Phase) : Prop := q = .idle ∨ p.code.toNat < q.code.toNat

/-- What every performed phase does, whatever the operation: the handle and `OPSEL` stay, the transport's answers are
used up from the front, and `SEQ` goes on. -/
structure PhaseEdge (s t : State) : Prop where
  bus : t.bus = s.bus
  csLine : t.csLine = s.csLine
  timeout : t.timeout = s.timeout
  opsel : t.opsel = s.opsel
  script : t.transport.script <:+ s.transport.script
  seq : s.seq.Before t.seq

section

variable {h : Handle} {i : Instr} {s t : State}

theorem phaseEdge_of_txPhase {b : List Byte} {p d : Phase} (he : txPhase h b p d s = .next t) (hp : s.seq.Before p)
    (hd : s.seq.Before d) : PhaseEdge s t := by
  obtain rfl := settle_next he
  cases (s.busTx h b).1
  · exact ⟨rfl, rfl, rfl, rfl, Transport.tx_script_suffix b _, hd⟩
  · exact ⟨rfl, rfl, rfl, rfl, Transport.tx_script_suffix b _, hp⟩

theorem phaseEdge_of_rxPhase {n : Nat} {keep : List Byte → State → State} {d : Phase}
    (he : rxPhase h n keep d s = .next t) (hd : s.seq.Before d)
    (hkeep : ∀ b, PhaseEdge s ((keep b (s.busRx h n).2).goto d)) : PhaseEdge s t := by
  obtain rfl := settle_next he
  cases (s.busRx h n).1 with
  | none => exact ⟨rfl, rfl, rfl, rfl, Transport.rx_script_suffix n _, hd⟩
  | some b => exact hkeep b

/-- The phases that close a window (R144). -/
theorem phaseEdge_of_closing {p : Phase} (hp : s.seq.Before p) (hc : s.seq.Before .complete) :
    PhaseEdge s ((s.csSet h .high).leaveWindow p) := by
  refine ⟨rfl, rfl, rfl, rfl, by simp, ?_⟩
  rw [State.leaveWindow_seq]
  split
  · exact hp
  · exact hc

theorem phaseEdge_of_completePhase (he : completePhase i s = .next t) : PhaseEdge s t := by
  unfold completePhase at he
  cases herr : s.err with
  | none => simp [herr] at he
  | some e =>
    simp only [herr] at he
    cases i <;> simp only [reduceCtorEq, Host.Outcome.next.injEq] at he
    case pageProgram =>
      split at he
      · obtain ⟨a, n, -, -, hk⟩ := withAddrLen_next he
        obtain rfl := Host.Outcome.next.inj hk
        exact ⟨rfl, rfl, rfl, rfl, List.suffix_refl _, .inl rfl⟩
      · obtain rfl := Host.Outcome.next.inj he
        exact ⟨rfl, rfl, rfl, rfl, List.suffix_refl _, .inl rfl⟩
    all_goals
      subst he
      exact ⟨rfl, rfl, rfl, rfl, List.suffix_refl _, .inl rfl⟩

/-- The table of R142 has no backward edge. -/
theorem phaseEdge_of_phaseOf (hrun : s.seq ≠ .idle) (he : phaseOf h i s = .next t) : PhaseEdge s t := by
  unfold phaseOf at he
  cases hq : s.seq <;> simp only [hq] at he
  case idle => exact absurd hq hrun
  case check =>
    obtain ⟨a, n, -, -, ⟨-, hk⟩ | ⟨-, -, hk⟩⟩ := withProgramParams_next he <;>
      obtain rfl := Host.Outcome.next.inj hk
    · exact ⟨rfl, rfl, rfl, rfl, List.suffix_refl _, hq ▸ (by decide : Phase.check.Before .complete)⟩
    · exact ⟨rfl, rfl, rfl, rfl, List.suffix_refl _, hq ▸ (by decide : Phase.check.Before .wlSel)⟩
  case wlSel =>
    obtain rfl := Host.Outcome.next.inj he
    exact ⟨rfl, rfl, rfl, rfl, by simp, hq ▸ (by decide : Phase.wlSel.Before .wlTx)⟩
  case wlTx => exact phaseEdge_of_txPhase he (hq ▸ by decide) (hq ▸ by decide)
  case srSel =>
    obtain rfl := Host.Outcome.next.inj he
    exact ⟨rfl, rfl, rfl, rfl, by simp, hq ▸ (by decide : Phase.srSel.Before .srTx)⟩
  case srTx => exact phaseEdge_of_txPhase he (hq ▸ by decide) (hq ▸ by decide)
  case srRx =>
    exact phaseEdge_of_rxPhase he (hq ▸ by decide) fun b =>
      ⟨rfl, rfl, rfl, rfl, Transport.rx_script_suffix 1 _, hq ▸ (by decide : Phase.srRx.Before .srDes)⟩
  case wlDes =>
    obtain rfl := Host.Outcome.next.inj he
    exact phaseEdge_of_closing (hq ▸ by decide) (hq ▸ by decide)
  case srDes =>
    obtain rfl := Host.Outcome.next.inj he
    exact phaseEdge_of_closing (hq ▸ by cases i <;> decide) (hq ▸ by decide)
  case wlVerify =>
    split at he
    · cases he
    · obtain rfl := Host.Outcome.next.inj he
      split
      · have hnext : Phase.wlVerify.Before (afterVerify i) := by cases i <;> decide
        exact ⟨rfl, rfl, rfl, rfl, List.suffix_refl _, hq ▸ hnext⟩
      · exact ⟨rfl, rfl, rfl, rfl, List.suffix_refl _, hq ▸ (by decide : Phase.wlVerify.Before .complete)⟩
  case cmdSel =>
    split at he
    · obtain rfl := Host.Outcome.next.inj he
      exact ⟨rfl, rfl, rfl, rfl, by simp, .inl rfl⟩
    · split at he
      · cases he
      · obtain rfl := Host.Outcome.next.inj he
        exact ⟨rfl, rfl, rfl, rfl, by simp, hq ▸ (by decide : Phase.cmdSel.Before .cmdHdr)⟩
  case cmdHdr =>
    split at he
    · cases he
    · exact phaseEdge_of_txPhase he (hq ▸ by cases i <;> decide) (hq ▸ by decide)
  case cmdDtx =>
    obtain ⟨n, -, he⟩ := withLen_next he
    obtain ⟨v, -, he⟩ := withPayload_next he
    exact phaseEdge_of_txPhase he (hq ▸ by decide) (hq ▸ by decide)
  case cmdDrx =>
    split at he
    · exact phaseEdge_of_rxPhase he (hq ▸ by decide) fun b =>
        ⟨rfl, rfl, rfl, rfl, Transport.rx_script_suffix 2 _, hq ▸ (by decide : Phase.cmdDrx.Before .cmdDes)⟩
    · obtain ⟨n, -, he⟩ := withLen_next he
      exact phaseEdge_of_rxPhase he (hq ▸ by decide) fun b =>
        ⟨rfl, rfl, rfl, rfl, Transport.rx_script_suffix n.toNat _, hq ▸ (by decide : Phase.cmdDrx.Before .cmdDes)⟩
    · cases he
  case cmdDes =>
    split at he
    · obtain rfl := Host.Outcome.next.inj he
      exact ⟨rfl, rfl, rfl, rfl, by simp, .inl rfl⟩
    · obtain rfl := Host.Outcome.next.inj he
      exact phaseEdge_of_closing (hq ▸ by decide) (hq ▸ by decide)
  case complete => exact phaseEdge_of_completePhase he

end

/-- Operation `i` runs with the handle `h`, and every request it makes is answered. -/
structure Goes (h : Handle) (i : Instr) (s : State) : Prop where
  current : s.current = some i
  handle : s.HasHandle h
  answers : s.transportAnswers = true

theorem Goes.phaseStep {h : Handle} {i : Instr} {s : State} (hg : Goes h i s) : phaseStep s = phaseOf h i s := by
  obtain ⟨hc, hh, -⟩ := hg
  rw [Machine.phaseStep, withHandle_of_hasHandle hh]
  unfold State.current at hc
  cases ho : s.opsel with
  | none => simp [ho] at hc
  | some c =>
    cases hd : decodeOpsel c with
    | error e => simp [ho, hd] at hc
    | ok j =>
      obtain rfl : j = i := by simpa [ho, hd] using hc
      simp [hd]

theorem PhaseEdge.goes {h : Handle} {i : Instr} {s t : State} (he : PhaseEdge s t) (hg : Goes h i s) : Goes h i t := by
  obtain ⟨hc, ⟨hb, hl, hd⟩, ha⟩ := hg
  refine ⟨?_, ⟨he.bus.trans hb, he.csLine.trans hl, he.timeout.trans hd⟩, ?_⟩
  · rw [← hc, State.current, State.current, he.opsel]
  · simp only [State.transportAnswers, Bool.not_eq_true', List.contains_eq_mem, decide_eq_false_iff_not] at ha ⊢
    exact fun hmem => ha (he.script.subset hmem)

/-! ### A running operation performs its next phase (R150) -/

/-- The two edges of a request: on to `p` when it was answered well, else to `d` with `COMM` (R143). -/
def State.edge (ok : Bool) (p d : Phase) (t : State) : State := if ok then t.goto p else t.failTo d .comm

/-- `t` with what a receive delivered, if it delivered anything, put where `keep` puts it. -/
def State.keeping (keep : List Byte → State → State) (answer : Option (List Byte)) (t : State) : State :=
  answer.elim t (keep · t)

@[simp] theorem State.edge_true (p d : Phase) (t : State) : t.edge true p d = t.goto p := rfl

@[simp] theorem State.keeping_some (keep : List Byte → State → State) (bs : List Byte) (t : State) :
    t.keeping keep (some bs) = keep bs t := rfl

section

variable {h : Handle} {i : Instr} {s : State}

theorem txPhase_of_answers (ha : s.transportAnswers = true) (h : Handle) (b : List Byte) (p d : Phase) :
    txPhase h b p d s = .next ((s.busTx h b).2.edge (s.busTx h b).1 p d) :=
  settle_of_answers ha _

theorem rxPhase_of_answers (ha : s.transportAnswers = true) (h : Handle) (n : Nat)
    (keep : List Byte → State → State) (d : Phase) :
    rxPhase h n keep d s =
      .next (((s.busRx h n).2.keeping keep (s.busRx h n).1).edge (s.busRx h n).1.isSome d d) := by
  rw [rxPhase, settle_of_answers ha]
  cases (s.busRx h n).1 <;> rfl

theorem completePhase_answers (hs : RunsWell i s) (hq : s.seq = .complete) : ∃ t, completePhase i s = .next t := by
  have hf := hs.phase
  simp only [phaseFits, hq, Bool.and_eq_true] at hf
  obtain ⟨⟨⟨⟨⟨hw, herr⟩, -⟩, -⟩, -⟩, -⟩ := hf
  obtain ⟨e, he⟩ := Option.isSome_iff_exists.1 herr
  unfold completePhase
  simp only [he]
  cases i with
  | csAssert => cases hw
  | csDeassert => cases hw
  | pageProgram =>
    have ho := hs.operands
    simp only [operandsFit, Bool.and_eq_true] at ho
    obtain ⟨a, n, ha, hn⟩ := addrLen_of_operandsHold (.inl rfl) ho.1.2
    simp only [withAddrLen_eq ha hn]
    split
    · exact ⟨_, rfl⟩
    · exact ⟨_, rfl⟩
  | _ => exact ⟨_, rfl⟩

/-- An operation with a frame of its own can assemble its header (R147). -/
theorem headerOf_of_operandsHold (hown : hasOwnFrame i = true) (ho : s.operandsHold i = true) :
    ∃ hd, headerOf i s = some hd := by
  cases i with
  | verifyId => exact ⟨_, rfl⟩
  | chipErase => exact ⟨_, rfl⟩
  | pageProgram =>
    obtain ⟨a, n, ha, -⟩ := addrLen_of_operandsHold (.inl rfl) ho
    exact ⟨.pageProgram (addr24 a), by simp [headerOf, ha]⟩
  | readData =>
    obtain ⟨a, n, ha, -⟩ := addrLen_of_operandsHold (.inr rfl) ho
    exact ⟨.readBytes (addr24 a), by simp [headerOf, ha]⟩
  | _ => cases hown

/-- In the invariant each phase finds what it needs, so with an answering transport it is performed. -/
theorem phaseOf_answers (hs : RunsWell i s) (ha : s.transportAnswers = true) : ∃ t, phaseOf h i s = .next t := by
  have hf := hs.phase
  have ho := hs.operands
  simp only [operandsFit, Bool.and_eq_true] at ho
  obtain ⟨⟨-, hold⟩, hpay⟩ := ho
  unfold phaseOf
  cases hq : s.seq <;> simp only
  case check =>
    obtain ⟨rfl, -⟩ : i = .pageProgram ∧ s.err = some .ok := by simpa [phaseFits, hq] using hf
    obtain ⟨a, n, ha, hn⟩ := addrLen_of_operandsHold (.inl rfl) hold
    rw [withProgramParams, withAddrLen_eq ha hn]
    split
    · exact ⟨_, rfl⟩
    · split
      · exact ⟨_, rfl⟩
      · exact ⟨_, rfl⟩
  case wlTx => exact ⟨_, txPhase_of_answers ha ..⟩
  case srTx => exact ⟨_, txPhase_of_answers ha ..⟩
  case srRx => exact ⟨_, rxPhase_of_answers ha ..⟩
  case wlVerify =>
    obtain ⟨-, hsr⟩ := by simpa [phaseFits, hq] using hf
    obtain ⟨b, hb⟩ := Option.isSome_iff_exists.1 hsr
    simp only [hb]
    exact ⟨_, rfl⟩
  case cmdSel =>
    obtain ⟨hown, -⟩ := by simpa [phaseFits, hq] using hf
    split
    · exact ⟨_, rfl⟩
    · rename_i hi
      obtain ⟨hd, hhd⟩ := headerOf_of_operandsHold (hown.resolve_left hi) hold
      simp only [hhd]
      exact ⟨_, rfl⟩
  case cmdHdr =>
    obtain ⟨⟨⟨hown, -⟩, -⟩, hhdr⟩ := by simpa [phaseFits, hq] using hf
    obtain ⟨hd, hhd⟩ := headerOf_of_operandsHold hown hold
    simp only [hhdr, hhd, Option.map_some]
    exact ⟨_, txPhase_of_answers ha ..⟩
  case cmdDtx =>
    obtain ⟨⟨rfl, -⟩, -⟩ := by simpa [phaseFits, hq] using hf
    obtain ⟨a, n, -, hn⟩ := addrLen_of_operandsHold (.inl rfl) hold
    obtain ⟨-, v, hv⟩ : (∃ a, s.addr = some a) ∧ ∃ v, cellSlice s.txbuf 0 n.toNat = some v := by
      simpa [hq, hn, Option.isSome_iff_exists] using hpay
    simp only [withLen, hn, withOperand_some, withPayload_eq hv]
    exact ⟨_, txPhase_of_answers ha ..⟩
  case cmdDrx =>
    obtain ⟨⟨rfl | rfl, -⟩, -⟩ := by simpa [phaseFits, hq] using hf
    · exact ⟨_, rxPhase_of_answers ha ..⟩
    · obtain ⟨a, n, -, hn⟩ := addrLen_of_operandsHold (.inr rfl) hold
      simp only [withLen, hn, withOperand_some]
      exact ⟨_, rxPhase_of_answers ha ..⟩
  case cmdDes =>
    split
    · exact ⟨_, rfl⟩
    · exact ⟨_, rfl⟩
  case complete => exact completePhase_answers hs hq
  all_goals exact ⟨_, rfl⟩

end

/-- The invariant's running operation, its handle and its transport. -/
theorem RunsWell.goes {i : Instr} {s : State} (hs : RunsWell i s) (ha : s.transportAnswers = true) :
    ∃ h, Goes h i s := by
  have ho := hs.operands
  simp only [operandsFit, Bool.and_eq_true] at ho
  obtain ⟨⟨⟨⟨hbus, hline⟩, htime⟩, -⟩, -⟩ := ho
  obtain ⟨b, hb⟩ := Option.isSome_iff_exists.1 hbus
  obtain ⟨l, hl⟩ := Option.isSome_iff_exists.1 hline
  obtain ⟨d, hd⟩ := Option.isSome_iff_exists.1 htime
  exact ⟨⟨b, l, d⟩, hs.current, ⟨hb, hl, hd⟩, ha⟩

/-- Settles O55: the invariant gives the phase what it needs, and every performed phase is an edge of the table. -/
theorem phasesOnlyMoveForward : Obligations.PhasesOnlyMoveForward := by
  unfold Obligations.PhasesOnlyMoveForward
  intro s hs hr ha
  obtain ⟨i, hrun⟩ := (State.inv_running_iff ((State.running_of_inv hs).1 hr)).1 hs
  obtain ⟨h, hg⟩ := hrun.goes ha
  obtain ⟨t, ht⟩ := phaseOf_answers (h := h) hrun ha
  have he : phaseStep s = .next t := hg.phaseStep.trans ht
  have hedge := phaseEdge_of_phaseOf hrun.seq ht
  exact ⟨t, he, hedge.seq, (hedge.goes hg).answers, inv_of_phaseStep hs hr he⟩

end Sys2Proof.Machine

/-! ## Phase by phase as in the atomic form (R142 to R152) -/

namespace Sys2Proof.Machine

open Sys2Proof

/-! ### Runs of phases -/

/-- Operation `i` performs the phases `ps` one after another from `s` and then stands in `t`. -/
inductive PhaseRun (h : Handle) (i : Instr) : State → List Phase → State → Prop where
  | done (s : State) : PhaseRun h i s [] s
  | perform {s t u : State} {p : Phase} {ps : List Phase} (hq : s.seq = p) (hp : p ≠ .idle)
      (he : phaseOf h i s = .next t) (hr : PhaseRun h i t ps u) : PhaseRun h i s (p :: ps) u

section

variable {h : Handle} {i : Instr} {s t u : State} {p : Phase} {ps qs : List Phase}

theorem PhaseRun.single (hq : s.seq = p) (hp : p ≠ .idle) (he : phaseOf h i s = .next t) : PhaseRun h i s [p] t :=
  .perform hq hp he (.done t)

theorem PhaseRun.append (hs : PhaseRun h i s ps t) (ht : PhaseRun h i t qs u) : PhaseRun h i s (ps ++ qs) u := by
  induction hs with
  | done => exact ht
  | perform hq hp he _ ih => exact .perform hq hp he (ih ht)

theorem PhaseRun.goes (hr : PhaseRun h i s ps t) (hg : Goes h i s) : Goes h i t := by
  induction hr with
  | done => exact hg
  | perform hq hp he _ ih => exact ih ((phaseEdge_of_phaseOf (hq ▸ hp) he).goes hg)

/-- A run that ends at `IDLE` is what `runPhases` finds, if it may go on long enough. -/
theorem PhaseRun.runPhases_eq (hr : PhaseRun h i s ps t) (hg : Goes h i s) (ht : t.seq = .idle) {k : Nat}
    (hk : ps.length ≤ k) : runPhases k s = .next t := by
  induction hr generalizing k with
  | done => cases k <;> simp [runPhases, ht]
  | @perform s _ _ p _ hq hp he _ ih =>
    have hs : s.seq ≠ .idle := hq ▸ hp
    obtain ⟨k, rfl⟩ : ∃ m, k = m + 1 := ⟨k - 1, by simp at hk; omega⟩
    simp only [runPhases, hs, if_false, hg.phaseStep, he]
    exact ih ((phaseEdge_of_phaseOf hs he).goes hg) ht (Nat.le_of_succ_le_succ hk)

/-- A run that ends at `IDLE` visits its phases. -/
theorem PhaseRun.phasesVisited_eq (hr : PhaseRun h i s ps t) (hg : Goes h i s) (ht : t.seq = .idle) {k : Nat}
    (hk : ps.length ≤ k) : phasesVisited k s = ps := by
  induction hr generalizing k with
  | done => cases k <;> simp [phasesVisited, ht]
  | @perform s _ _ p _ hq hp he _ ih =>
    have hs : s.seq ≠ .idle := hq ▸ hp
    obtain ⟨k, rfl⟩ : ∃ m, k = m + 1 := ⟨k - 1, by simp at hk; omega⟩
    simp only [phasesVisited, hq, hp, if_false, hg.phaseStep, he]
    rw [ih ((phaseEdge_of_phaseOf hs he).goes hg) ht (Nat.le_of_succ_le_succ hk)]

/-- From `s` the phases lead to `t`, through no more of them than `path` has, and where `good` holds through `path`
itself. -/
def Reaches (h : Handle) (i : Instr) (s t : State) (good : Prop) (path : List Phase) : Prop :=
  ∃ ps, PhaseRun h i s ps t ∧ ps.length ≤ path.length ∧ (good → ps = path)

variable {good good' : Prop} {path path' : List Phase}

theorem PhaseRun.reaches (hr : PhaseRun h i s path t) : Reaches h i s t good path :=
  ⟨path, hr, le_rfl, fun _ => rfl⟩

/-- A run that leaves the path early. -/
theorem PhaseRun.reaches_short (hr : PhaseRun h i s ps t) (hk : ps.length ≤ path.length) (hbad : ¬ good) :
    Reaches h i s t good path :=
  ⟨ps, hr, hk, fun hg => absurd hg hbad⟩

theorem Reaches.goes (hr : Reaches h i s t good path) (hg : Goes h i s) : Goes h i t := by
  obtain ⟨ps, hrun, -⟩ := hr
  exact hrun.goes hg

/-- Good throughout: the paths follow one another. -/
theorem Reaches.trans (hs : Reaches h i s t good path) (ht : Reaches h i t u good' path') (hgood : good) :
    Reaches h i s u good' (path ++ path') := by
  obtain ⟨ps, hps, hlen, hpath⟩ := hs
  obtain ⟨qs, hqs, hlen', hpath'⟩ := ht
  refine ⟨ps ++ qs, hps.append hqs, by simp; omega, fun hg => ?_⟩
  rw [hpath hgood, hpath' hg]

/-- An abort goes on with few phases, and is not good. -/
theorem Reaches.abort (hs : Reaches h i s t good path) (ht : PhaseRun h i t qs u) (hk : qs.length ≤ path'.length)
    (hbad : ¬ good') : Reaches h i s u good' (path ++ path') := by
  obtain ⟨ps, hps, hlen, -⟩ := hs
  exact (hps.append ht).reaches_short (by simp; omega) hbad

/-- A phase before a path. -/
theorem Reaches.after (ht : Reaches h i t u good path) (hs : PhaseRun h i s ps t) :
    Reaches h i s u good (ps ++ path) :=
  (hs.reaches (good := True)).trans ht trivial

end

/-! ### A frame and its phases (R143, R144) -/

/-- The registers that a frame leaves as they were (R29). -/
structure SameRegs (s t : State) : Prop where
  err : t.err = s.err
  addr : t.addr = s.addr
  len : t.len = s.len
  txbuf : t.txbuf = s.txbuf

/-- `keep` stores received bytes in the hidden scratch: the chip-select line, `SEQ` and `ERR` are not concerned. -/
structure KeepsScratch (keep : List Byte → State → State) : Prop where
  csSet : ∀ bs h l t, (keep bs t).csSet h l = keep bs (t.csSet h l)
  goto : ∀ bs p t, keep bs (t.goto p) = (keep bs t).goto p
  err : ∀ bs t, (keep bs t).err = t.err

theorem KeepsScratch.keeping_csSet {keep : List Byte → State → State} (hk : KeepsScratch keep)
    (answer : Option (List Byte)) (h : Handle) (l : Level) (t : State) :
    (t.keeping keep answer).csSet h l = (t.csSet h l).keeping keep answer := by
  cases answer with
  | none => rfl
  | some bs => exact hk.csSet bs h l t

theorem KeepsScratch.keeping_err {keep : List Byte → State → State} (hk : KeepsScratch keep)
    (answer : Option (List Byte)) (t : State) : (t.keeping keep answer).err = t.err := by
  cases answer with
  | none => rfl
  | some bs => exact hk.err bs t

/-- Where a request is made the phase does not matter to what it answers and leaves. -/
theorem KeepsScratch.rxPhase_goto {keep : List Byte → State → State} (hk : KeepsScratch keep) {t : State}
    {p : Phase} (ha : (t.goto p).transportAnswers = true) (h : Handle) (n : Nat) (d : Phase) :
    rxPhase h n keep d (t.goto p) =
      .next (((t.busRx h n).2.keeping keep (t.busRx h n).1).edge (t.busRx h n).1.isSome d d) := by
  have hrx : (t.goto p).busRx h n = ((t.busRx h n).1, (t.busRx h n).2.goto p) := rfl
  rw [rxPhase_of_answers ha, hrx]
  cases (t.busRx h n).1 with
  | none => rfl
  | some bs => exact (congrArg (fun u => Host.Outcome.next (State.goto d u)) (hk.goto bs p (t.busRx h n).2) :)

theorem leaveWindow_of_ok {t : State} (ht : t.err = some .ok) (p : Phase) : t.leaveWindow p = t.goto p := by
  simp [State.leaveWindow, State.goto, ht]

/-- The phases of one frame with the header `b`: from `s` the phase `sel` opens the window on the registers `u`, `tx`
sends the header and goes on to `aft`, `des` closes the window and goes on to `nxt`. -/
structure FramePhases (h : Handle) (i : Instr) (s u : State) (b : List Byte) (sel tx aft des nxt : Phase) : Prop where
  atSelect : s.seq = sel
  notIdle : sel ≠ .idle ∧ tx ≠ .idle ∧ aft ≠ .idle ∧ des ≠ .idle
  err : u.err = some .ok
  select : phaseOf h i s = .next ((u.csSet h .low).goto tx)
  send : phaseOf h i ((u.csSet h .low).goto tx) = txPhase h b aft des ((u.csSet h .low).goto tx)
  close : ∀ w : State, w.seq = des → phaseOf h i w = .next ((w.csSet h .high).leaveWindow nxt)

section

variable {h : Handle} {i : Instr} {s u : State} {b : List Byte} {sel tx aft des nxt : Phase}

theorem FramePhases.header (f : FramePhases h i s u b sel tx aft des nxt) (hg : Goes h i s) :
    PhaseRun h i s [sel, tx] (((u.csSet h .low).busTx h b).2.edge ((u.csSet h .low).busTx h b).1 aft des) := by
  obtain ⟨hsel, htx, -, -⟩ := f.notIdle
  have hopen := PhaseRun.single f.atSelect hsel f.select
  exact hopen.append (.single rfl htx (f.send.trans (txPhase_of_answers (hopen.goes hg).answers ..)))

/-- The closing phase goes on as the request before it was answered. -/
theorem FramePhases.closing (f : FramePhases h i s u b sel tx aft des nxt) (w : State) (ok : Bool)
    (hw : w.err = u.err := by rfl) :
    PhaseRun h i (w.edge ok des des) [des] ((w.csSet h .high).edge ok nxt .complete) := by
  obtain ⟨-, -, -, hdes⟩ := f.notIdle
  cases ok with
  | false => exact .single rfl hdes (f.close _ rfl)
  | true =>
    have hleave := leaveWindow_of_ok (t := (w.goto des).csSet h .high) (hw.trans f.err) nxt
    exact .single rfl hdes ((f.close _ rfl).trans (congrArg _ hleave))

/-- A frame whose header was its last request. -/
theorem FramePhases.busTx (f : FramePhases h i s u b sel tx des des nxt) (hg : Goes h i s) :
    PhaseRun h i s [sel, tx, des]
      ((window h (State.busTx h b) u).2.edge (window h (State.busTx h b) u).1 nxt .complete) :=
  (f.header hg).append (f.closing _ _)

theorem FramePhases.header_failed (f : FramePhases h i s u b sel tx aft des nxt) (hg : Goes h i s)
    (hans : ((u.csSet h .low).busTx h b).1 = false) :
    PhaseRun h i s [sel, tx, des] ((((u.csSet h .low).busTx h b).2.csSet h .high).edge false nxt .complete) := by
  have hhead := f.header hg
  rw [hans] at hhead
  exact hhead.append (f.closing _ false)

theorem FramePhases.header_sent (f : FramePhases h i s u b sel tx aft des nxt) (hg : Goes h i s)
    (hans : ((u.csSet h .low).busTx h b).1 = true) :
    PhaseRun h i s [sel, tx] (((u.csSet h .low).busTx h b).2.goto aft) := by
  have hhead := f.header hg
  rwa [hans] at hhead

/-- A frame with a payload after its header (R124). -/
theorem FramePhases.sendSend (f : FramePhases h i s u b sel tx aft des nxt) (hg : Goes h i s) {v : List Byte}
    (hpay : ∀ w : State, w.seq = aft → SameRegs u w → phaseOf h i w = txPhase h v des des w) :
    Reaches h i s ((window h (sendSend h b v) u).2.edge (window h (sendSend h b v) u).1 nxt .complete)
      ((window h (sendSend h b v) u).1 = true) [sel, tx, aft, des] := by
  obtain ⟨-, -, haft, -⟩ := f.notIdle
  cases hans : ((u.csSet h .low).busTx h b).1 with
  | false =>
    simp only [window, Machine.sendSend, hans]
    exact (f.header_failed hg hans).reaches_short (by simp) (by simp)
  | true =>
    have hhead := f.header_sent hg hans
    have hphase := hpay (((u.csSet h .low).busTx h b).2.goto aft) rfl ⟨rfl, rfl, rfl, rfl⟩
    have hsecond := PhaseRun.single rfl haft (hphase.trans (txPhase_of_answers (hhead.goes hg).answers ..))
    simp only [window, Machine.sendSend, hans, if_true]
    exact ((hhead.append hsecond).append (f.closing _ _)).reaches

/-- A frame that receives after its header (R96, R102, R132). -/
theorem FramePhases.sendReceive (f : FramePhases h i s u b sel tx aft des nxt) (hg : Goes h i s) {n : Nat}
    {keep : List Byte → State → State} (hk : KeepsScratch keep)
    (hrx : ∀ w : State, w.seq = aft → SameRegs u w → phaseOf h i w = rxPhase h n keep des w) :
    Reaches h i s (((window h (sendReceive h b n) u).2.keeping keep (window h (sendReceive h b n) u).1).edge
      (window h (sendReceive h b n) u).1.isSome nxt .complete)
      ((window h (sendReceive h b n) u).1.isSome = true) [sel, tx, aft, des] := by
  obtain ⟨-, -, haft, -⟩ := f.notIdle
  cases hans : ((u.csSet h .low).busTx h b).1 with
  | false =>
    simp only [window, Machine.sendReceive, hans]
    exact (f.header_failed hg hans).reaches_short (by simp) (by simp)
  | true =>
    have hhead := f.header_sent hg hans
    have hphase := hrx (((u.csSet h .low).busTx h b).2.goto aft) rfl ⟨rfl, rfl, rfl, rfl⟩
    have hsecond := PhaseRun.single rfl haft (hphase.trans (hk.rxPhase_goto (hhead.goes hg).answers ..))
    simp only [window, Machine.sendReceive, hans, if_true, ← hk.keeping_csSet]
    exact ((hhead.append hsecond).append (f.closing _ _ (hk.keeping_err _ _))).reaches

end

/-! ### The latch sequence and its phases (R109, R114) -/

section

variable {h : Handle} {i : Instr} {u : State}

theorem framePhases_latchCommand (herr : u.err = some .ok) :
    FramePhases h i (u.goto .wlSel) u (latchCommand i).1.bytes .wlSel .wlTx .wlDes .wlDes .srSel where
  atSelect := rfl
  notIdle := by simp
  err := herr
  select := rfl
  send := rfl
  close w hw := by simp [phaseOf, hw]

theorem framePhases_readStatus (herr : u.err = some .ok) :
    FramePhases h i (u.goto .srSel) u (Header.bytes .readStatus) .srSel .srTx .srRx .srDes (afterStatus i) where
  atSelect := rfl
  notIdle := by simp
  err := herr
  select := rfl
  send := rfl
  close w hw := by simp [phaseOf, hw]

theorem framePhases_own {hd : Header} (hi : i ≠ .csAssert ∧ i ≠ .csDeassert) (herr : u.err = some .ok)
    (hhd : headerOf i u = some hd) :
    FramePhases h i (u.goto .cmdSel) { u with hdr := some hd.bytes } hd.bytes .cmdSel .cmdHdr (afterHeader i) .cmdDes
      .complete where
  atSelect := rfl
  notIdle := by cases i <;> simp [afterHeader]
  err := herr
  select := by
    have hhd' : headerOf i (u.goto .cmdSel) = some hd := (headerOf_congr i rfl).trans hhd
    simp only [phaseOf, State.goto_seq, hi.1, if_false, hhd']
    rfl
  send := rfl
  close w hw := by simp [phaseOf, hw, hi.2]

theorem phaseOf_srRx {s : State} (hq : s.seq = .srRx) :
    phaseOf h i s = rxPhase h 1 (fun b t => { t with srTmp := b.head? }) .srDes s := by
  simp only [phaseOf, hq]

/-- The status window (R102): the byte received stands in `SR_TMP`. -/
theorem reaches_readStatusSeq (hg : Goes h i (u.goto .srSel)) (herr : u.err = some .ok) :
    Reaches h i (u.goto .srSel)
      (State.edge (readStatusSeq h u).1.isSome (afterStatus i) .complete
        { (readStatusSeq h u).2 with srTmp := (readStatusSeq h u).1.or (readStatusSeq h u).2.srTmp })
      ((readStatusSeq h u).1.isSome = true) [.srSel, .srTx, .srRx, .srDes] := by
  have hk : KeepsScratch fun bs t => { t with srTmp := bs.head? } :=
    ⟨fun _ _ _ _ => rfl, fun _ _ _ => rfl, fun _ _ => rfl⟩
  have hframe := (framePhases_readStatus (h := h) (i := i) herr).sendReceive hg hk fun w hq _ => phaseOf_srRx hq
  have hlen : ∀ bs, (window h (sendReceive h (Header.bytes .readStatus) 1) u).1 = some bs → bs.length = 1 := by
    rcases window_sendReceive_cases h (Header.bytes .readStatus) 1 u with ⟨hn, -⟩ | ⟨hl, -⟩
    · exact fun bs hbs => nomatch hn.symm.trans hbs
    · exact hl
  rw [readStatusSeq]
  generalize window h (sendReceive h (Header.bytes .readStatus) 1) u = r at hframe hlen ⊢
  obtain ⟨ans, t⟩ := r
  cases ans with
  | none => exact hframe
  | some bs =>
    obtain ⟨b, rfl⟩ := List.length_eq_one_iff.1 (hlen bs rfl)
    exact hframe

/-- Where the latch-and-verify machine leaves an operation: past it with `OK`, else at `COMPLETE` with its kind. -/
def State.leaveLatch (i : Instr) (k : ResultKind) (t : State) : State :=
  if k = .ok then t.goto (afterVerify i) else t.failTo .complete k

theorem leaveLatch_ok (i : Instr) (t : State) : t.leaveLatch i .ok = t.goto (afterVerify i) := if_pos rfl

theorem leaveLatch_of_ne {k : ResultKind} (hk : k ≠ .ok) (t : State) : t.leaveLatch i k = t.failTo .complete k :=
  if_neg hk

/-- `WL_VERIFY` (R109, R114): the verdict on bit 1 decides between the next phase and `COMPLETE`. -/
theorem phaseOf_wlVerify {b : Byte} (hb : u.srTmp = some b) :
    phaseOf h i (u.goto .wlVerify) = .next (u.leaveLatch i (latchVerdict (latchCommand i).2 b)) := by
  simp only [phaseOf, State.goto_seq, State.goto_srTmp, hb]
  rcases latchVerdict_cases (latchCommand i).2 b with ⟨hv, -⟩ | ⟨hv, -⟩ <;> rw [hv] <;> rfl

/-- The eight phases of the latch-and-verify machine end as `LatchSeq` does (R109). -/
theorem reaches_latchSeq (hg : Goes h i (u.goto .wlSel)) (herr : u.err = some .ok) (hi : i ≠ .readStatus) :
    Reaches h i (u.goto .wlSel) ((latchSeq h (latchCommand i).1 (latchCommand i).2 u).2.leaveLatch i
        (latchSeq h (latchCommand i).1 (latchCommand i).2 u).1)
      ((latchSeq h (latchCommand i).1 (latchCommand i).2 u).1 = .ok) latchPhases := by
  have hcmd := (framePhases_latchCommand (h := h) (i := i) herr).busTx hg
  have hafter : afterStatus i = .wlVerify := by
    revert hi
    cases i <;> simp [afterStatus]
  have herr' : (window h (State.busTx h (latchCommand i).1.bytes) u).2.err = some .ok := herr
  rw [latchSeq]
  generalize window h (State.busTx h (latchCommand i).1.bytes) u = c at hcmd herr' ⊢
  obtain ⟨ok, t⟩ := c
  cases ok with
  | false => exact hcmd.reaches_short (by simp [latchPhases]) (by simp)
  | true =>
    have hstatus := reaches_readStatusSeq (hcmd.goes hg) herr'
    simp only [if_true]
    generalize readStatusSeq h t = q at hstatus ⊢
    obtain ⟨ans, v⟩ := q
    rw [hafter] at hstatus
    cases ans with
    | none => exact (hstatus.after hcmd).abort (.done _) (path' := [.wlVerify]) (by simp) (by simp)
    | some b =>
      have hverify : PhaseRun h i ({ v with srTmp := some b }.goto .wlVerify) [.wlVerify] _ :=
        .single rfl (by simp) (phaseOf_wlVerify rfl)
      exact Reaches.after (hstatus.trans hverify.reaches rfl) hcmd

end

/-! ### The operations -/

theorem OnBus.sameRegs {s t : State} {tr : List Event} (ho : OnBus s t tr) : SameRegs s t :=
  ⟨by rw [ho], by rw [ho], by rw [ho], by rw [ho]⟩

theorem sameRegs_window_sendReceive (h : Handle) (b : List Byte) (n : Nat) (s : State) :
    SameRegs s (window h (sendReceive h b n) s).2 := by
  rcases window_sendReceive_cases h b n s with ⟨-, ho⟩ | ⟨-, ho⟩
  · exact ho.sameRegs
  · exact ho.sameRegs

theorem sameRegs_window_sendSend (h : Handle) (b v : List Byte) (s : State) :
    SameRegs s (window h (sendSend h b v) s).2 := by
  rcases window_sendSend_cases h b v s with ⟨-, ho⟩ | ho
  · exact ho.sameRegs
  · exact ho.sameRegs

theorem sameRegs_readStatusSeq (h : Handle) (s : State) : SameRegs s (readStatusSeq h s).2 :=
  sameRegs_window_sendReceive h _ _ s

theorem sameRegs_latchSeq (h : Handle) (cmd : Header) (want : Bool) (s : State) :
    SameRegs s (latchSeq h cmd want s).2 := by
  obtain ⟨tr, ho, -⟩ := latchSeq_outcomes h cmd want s
  obtain ⟨herr, haddr, hlen, htx⟩ := ho.sameRegs
  exact ⟨herr, haddr, hlen, htx⟩

section

variable {h : Handle} {i : Instr} {s t u : State}

theorem phaseRun_complete (hq : s.seq = .complete) (he : completePhase i s = .next t) :
    PhaseRun h i s [.complete] t :=
  .single hq (by simp) (by simp only [phaseOf, hq, he])

/-- The phases of operation `i` from its phase `p` on the registers `u` end in the state `t` of the atomic form,
through `path` itself when that ends in `OK`. -/
abbrev EndsAs (h : Handle) (i : Instr) (p : Phase) (u t : State) (path : List Phase) : Prop :=
  Reaches h i (u.goto p) t (t.result = some .ok) path

theorem Reaches.complete {good : Prop} {path : List Phase} (hl : Reaches h i s t good path) (hgood : good)
    (hq : t.seq = .complete) (he : completePhase i t = .next u) :
    Reaches h i s u (u.result = some .ok) (path ++ [.complete]) :=
  hl.trans (phaseRun_complete hq he).reaches hgood

theorem Reaches.complete_failed {good : Prop} {path : List Phase} (hl : Reaches h i s t good path)
    (hq : t.seq = .complete) (he : completePhase i t = .next u) (hu : u.result ≠ some .ok) :
    Reaches h i s u (u.result = some .ok) (path ++ [.complete]) :=
  hl.abort (phaseRun_complete hq he) le_rfl hu

/-! #### `VERIFY_ID` and `READ_STATUS` -/

theorem completePhase_verifyId {b : List Byte} (herr : s.err = some .ok) (hid : s.idTmp = some b) :
    completePhase .verifyId s = .next (s.complete (idVerdict b)) := by
  simp only [completePhase, herr, hid, idVerdict]
  by_cases hb : b = expectedId <;> simp [hb]

theorem phaseOf_cmdDrx_verifyId (hq : s.seq = .cmdDrx) :
    phaseOf h .verifyId s = rxPhase h 2 (fun b t => { t with idTmp := some b }) .cmdDes s := by
  simp only [phaseOf, hq]

theorem endsAs_runVerifyId (hg : Goes h .verifyId (u.goto .cmdSel)) (herr : u.err = some .ok) :
    EndsAs h .verifyId .cmdSel u (runVerifyId h u) [.cmdSel, .cmdHdr, .cmdDrx, .cmdDes, .complete] := by
  have hk : KeepsScratch fun bs t => { t with idTmp := some bs } :=
    ⟨fun _ _ _ _ => rfl, fun _ _ _ => rfl, fun _ _ => rfl⟩
  have hframe := (framePhases_own (h := h) (i := .verifyId) (hd := .readId) (by simp) herr rfl).sendReceive hg hk
    fun w hq _ => phaseOf_cmdDrx_verifyId hq
  have hregs := sameRegs_window_sendReceive h (Header.bytes .readId) 2 { u with hdr := some (Header.bytes .readId) }
  rw [runVerifyId]
  generalize window h (sendReceive h (Header.bytes .readId) 2) { u with hdr := some (Header.bytes .readId) } = r
    at hframe hregs ⊢
  obtain ⟨ans, t⟩ := r
  cases ans with
  | none => exact hframe.complete_failed rfl rfl (by simp)
  | some b => exact hframe.complete rfl rfl (completePhase_verifyId (hregs.err.trans herr) rfl)

theorem completePhase_readStatus (herr : s.err = some .ok) :
    completePhase .readStatus s = .next ({ s with status := s.srTmp }.complete .ok) := by
  simp only [completePhase, herr, if_true]

theorem endsAs_runReadStatus (hg : Goes h .readStatus (u.goto .srSel)) (herr : u.err = some .ok) :
    EndsAs h .readStatus .srSel u (runReadStatus h u) [.srSel, .srTx, .srRx, .srDes, .complete] := by
  have hstatus := reaches_readStatusSeq hg herr
  have hregs := sameRegs_readStatusSeq h u
  rw [runReadStatus]
  generalize readStatusSeq h u = r at hstatus hregs ⊢
  obtain ⟨ans, t⟩ := r
  cases ans with
  | none => exact hstatus.complete_failed rfl rfl (by simp)
  | some b => exact hstatus.complete rfl rfl (completePhase_readStatus (hregs.err.trans herr))

/-! #### The latch operations, and what a composite one makes of its write-enable (R113) -/

/-- An operation whose latch sequence failed goes on with `COMPLETE` alone. -/
theorem Reaches.latch_failed {k : ResultKind} {path : List Phase}
    (hl : Reaches h i s (t.leaveLatch i k) (k = .ok) latchPhases) (hk : k ≠ .ok)
    (hc : completePhase i (t.failTo .complete k) = .next u) (hu : u.result = some k) (hpath : path ≠ []) :
    Reaches h i s u (u.result = some .ok) (latchPhases ++ path) := by
  rw [leaveLatch_of_ne hk] at hl
  exact hl.abort (phaseRun_complete rfl hc) (List.length_pos_iff.2 hpath) (by simpa [hu] using hk)

theorem completePhase_latchOp (hi : i = .writeEnable ∨ i = .writeDisable) {k : ResultKind} (herr : s.err = some k) :
    completePhase i s = .next (s.complete k) := by
  rcases hi with rfl | rfl <;> simp only [completePhase, herr]

/-- `WRITE_ENABLE` and `WRITE_DISABLE` alike. -/
theorem endsAs_latchOp (hi : i = .writeEnable ∨ i = .writeDisable) (hg : Goes h i (u.goto .wlSel))
    (herr : u.err = some .ok) :
    EndsAs h i .wlSel u ((latchSeq h (latchCommand i).1 (latchCommand i).2 u).2.complete
      (latchSeq h (latchCommand i).1 (latchCommand i).2 u).1) (latchPhases ++ [Phase.complete]) := by
  have hlatch := reaches_latchSeq hg herr (by rcases hi with rfl | rfl <;> simp)
  have hregs := sameRegs_latchSeq h (latchCommand i).1 (latchCommand i).2 u
  generalize latchSeq h (latchCommand i).1 (latchCommand i).2 u = e at hlatch hregs ⊢
  obtain ⟨k, t⟩ := e
  simp only at hlatch hregs
  by_cases hk : k = .ok
  · subst hk
    have hnext : afterVerify i = .complete := by rcases hi with rfl | rfl <;> rfl
    rw [leaveLatch_ok] at hlatch
    exact hlatch.complete rfl hnext (completePhase_latchOp hi (hregs.err.trans herr))
  · exact hlatch.latch_failed hk (completePhase_latchOp hi rfl) rfl (by simp)

/-- The write-enable of a composite operation. -/
theorem reaches_writeEnableSeq (hg : Goes h i (u.goto .wlSel)) (herr : u.err = some .ok)
    (hi : latchCommand i = (.writeEnable, true)) (hne : i ≠ .readStatus) :
    Reaches h i (u.goto .wlSel) ((writeEnableSeq h u).2.leaveLatch i (writeEnableSeq h u).1)
      ((writeEnableSeq h u).1 = .ok) latchPhases := by
  have hlatch := reaches_latchSeq hg herr hne
  rw [hi] at hlatch
  exact hlatch

/-! #### `CHIP_ERASE` -/

theorem completePhase_chipErase {k : ResultKind} (herr : s.err = some k) :
    completePhase .chipErase s = .next (s.complete k) := by
  simp only [completePhase, herr]

/-- `HDR` is a scratch register: a frame sent without it is the same frame. -/
theorem window_busTx_hdr (h : Handle) (b : List Byte) (s : State) (x : Option (List Byte)) :
    window h (State.busTx h b) { s with hdr := x } =
      ((window h (State.busTx h b) s).1, { (window h (State.busTx h b) s).2 with hdr := x }) := rfl

theorem endsAs_runChipErase (hg : Goes h .chipErase (u.goto .wlSel)) (herr : u.err = some .ok) :
    EndsAs h .chipErase .wlSel u (runChipErase h u)
      (latchPhases ++ [Phase.cmdSel, .cmdHdr, .cmdDes, .complete]) := by
  have hlatch := reaches_writeEnableSeq hg herr rfl (by simp)
  have hregs : SameRegs u (writeEnableSeq h u).2 := sameRegs_latchSeq h _ _ u
  rw [runChipErase]
  generalize writeEnableSeq h u = e at hlatch hregs ⊢
  obtain ⟨k, t⟩ := e
  simp only at hlatch hregs
  by_cases hk : k = .ok
  · subst hk
    rw [leaveLatch_ok] at hlatch
    have hframe := (framePhases_own (h := h) (i := .chipErase) (hd := .chipErase) (by simp) (hregs.err.trans herr)
      rfl).busTx (hlatch.goes hg)
    have herr' : (window h (State.busTx h (Header.bytes .chipErase)) t).2.err = some .ok := hregs.err.trans herr
    rw [window_busTx_hdr] at hframe
    simp only [if_true]
    generalize window h (State.busTx h (Header.bytes .chipErase)) t = w at hframe herr' ⊢
    obtain ⟨ok, v⟩ := w
    refine hlatch.trans (path' := [.cmdSel, .cmdHdr, .cmdDes, .complete]) ?_ rfl
    cases ok with
    | false =>
      exact (hframe.reaches (good := True)).complete_failed rfl (completePhase_chipErase rfl) (by simp)
    | true => exact (hframe.reaches (good := True)).complete trivial rfl (completePhase_chipErase herr')
  · simp only [hk, if_false]
    exact hlatch.latch_failed hk (completePhase_chipErase rfl) rfl (by simp)

/-! #### `PAGE_PROGRAM` -/

section

variable {a n : Word32} {v : List Byte}

theorem completePhase_pageProgram (herr : s.err = some .ok) (ha : s.addr = some a) (hn : s.len = some n) :
    completePhase .pageProgram s = .next ({ s with addr := some (a + n) }.complete .ok) := by
  simp only [completePhase, herr, if_true, withAddrLen_eq ha hn]

theorem completePhase_pageProgram_failed {k : ResultKind} (herr : s.err = some k) (hk : k ≠ .ok) :
    completePhase .pageProgram s = .next (s.complete k) := by
  simp only [completePhase, herr, hk, if_false]

theorem phaseOf_cmdDtx (hq : s.seq = .cmdDtx) (hn : s.len = some n) (hv : cellSlice s.txbuf 0 n.toNat = some v) :
    phaseOf h i s = txPhase h v .cmdDes .cmdDes s := by
  simp only [phaseOf, hq, withLen, hn, withOperand_some, withPayload_eq hv]

theorem endsAs_runPageProgram (hg : Goes h .pageProgram (u.goto .wlSel)) (herr : u.err = some .ok)
    (ha : u.addr = some a) (hn : u.len = some n) (hv : cellSlice u.txbuf 0 n.toNat = some v) :
    EndsAs h .pageProgram .wlSel u (runPageProgram h a n v u)
      (latchPhases ++ [Phase.cmdSel, .cmdHdr, .cmdDtx, .cmdDes, .complete]) := by
  have hlatch := reaches_writeEnableSeq hg herr rfl (by simp)
  have hregs : SameRegs u (writeEnableSeq h u).2 := sameRegs_latchSeq h _ _ u
  rw [runPageProgram]
  generalize writeEnableSeq h u = e at hlatch hregs ⊢
  obtain ⟨k, t⟩ := e
  simp only at hlatch hregs
  by_cases hk : k = .ok
  · subst hk
    rw [leaveLatch_ok] at hlatch
    obtain ⟨herr', haddr, hlen, htx⟩ := hregs
    have hhd : headerOf .pageProgram t = some (.pageProgram (addr24 a)) := by simp [headerOf, haddr, ha]
    have hframe := (framePhases_own (h := h) (by simp) (herr'.trans herr) hhd).sendSend (hlatch.goes hg)
      (v := v) fun w hq hw => phaseOf_cmdDtx hq (hw.len.trans (hlen.trans hn))
        ((congrArg (cellSlice · 0 n.toNat) (hw.txbuf.trans htx)).trans hv)
    have hregs' := sameRegs_window_sendSend h (Header.bytes (.pageProgram (addr24 a))) v
      { t with hdr := some (Header.bytes (.pageProgram (addr24 a))) }
    simp only [if_true]
    unfold memWrite
    generalize window h (sendSend h (Header.bytes (.pageProgram (addr24 a))) v)
      { t with hdr := some (Header.bytes (.pageProgram (addr24 a))) } = w at hframe hregs' ⊢
    obtain ⟨ok, x⟩ := w
    refine hlatch.trans (path' := [.cmdSel, .cmdHdr, .cmdDtx, .cmdDes, .complete]) ?_ rfl
    cases ok with
    | false => exact hframe.complete_failed rfl (completePhase_pageProgram_failed rfl (by simp)) (by simp)
    | true =>
      exact hframe.complete rfl rfl (completePhase_pageProgram (hregs'.err.trans (herr'.trans herr))
        (hregs'.addr.trans (haddr.trans ha)) (hregs'.len.trans (hlen.trans hn)))
  · simp only [hk, if_false]
    exact hlatch.latch_failed hk (completePhase_pageProgram_failed rfl hk) rfl (by simp)

/-! #### `READ_DATA` -/

theorem completePhase_readData {b : List Byte} (herr : s.err = some .ok) (hrx : s.rxTmp = some b) :
    completePhase .readData s = .next ({ s with rxbuf := some b }.complete .ok) := by
  simp only [completePhase, herr, hrx, if_true]

theorem completePhase_readData_failed {k : ResultKind} (herr : s.err = some k) (hk : k ≠ .ok) :
    completePhase .readData s = .next ({ s with rxbuf := none }.complete k) := by
  simp only [completePhase, herr, hk, if_false]

theorem phaseOf_cmdDrx_readData (hq : s.seq = .cmdDrx) (hn : s.len = some n) :
    phaseOf h .readData s = rxPhase h n.toNat (fun b t => { t with rxTmp := some b }) .cmdDes s := by
  simp only [phaseOf, hq, withLen, hn, withOperand_some]

theorem endsAs_runReadFrame (hg : Goes h .readData (u.goto .cmdSel)) (herr : u.err = some .ok)
    (ha : u.addr = some a) (hn : u.len = some n) :
    EndsAs h .readData .cmdSel u (runReadFrame h a n u) [.cmdSel, .cmdHdr, .cmdDrx, .cmdDes, .complete] := by
  have hk : KeepsScratch fun bs t => { t with rxTmp := some bs } :=
    ⟨fun _ _ _ _ => rfl, fun _ _ _ => rfl, fun _ _ => rfl⟩
  have hhd : headerOf .readData u = some (.readBytes (addr24 a)) := by simp [headerOf, ha]
  have hframe := (framePhases_own (h := h) (by simp) herr hhd).sendReceive hg hk fun w hq hw =>
    phaseOf_cmdDrx_readData hq (hw.len.trans hn)
  have hregs := sameRegs_window_sendReceive h (Header.bytes (.readBytes (addr24 a))) n.toNat
    { u with hdr := some (Header.bytes (.readBytes (addr24 a))) }
  rw [runReadFrame, memRead]
  generalize window h (sendReceive h (Header.bytes (.readBytes (addr24 a))) n.toNat)
    { u with hdr := some (Header.bytes (.readBytes (addr24 a))) } = r at hframe hregs ⊢
  obtain ⟨ans, t⟩ := r
  cases ans with
  | none => exact hframe.complete_failed rfl (completePhase_readData_failed rfl (by simp)) (by simp)
  | some b =>
    simp only [Option.isSome_some, State.edge_true, State.keeping_some] at hframe
    exact hframe.complete trivial rfl (completePhase_readData (hregs.err.trans herr) rfl)

theorem endsAs_runReadData (hg : Goes h .readData (u.goto (firstPhase .readData u.readPreWren)))
    (herr : u.err = some .ok) (ha : u.addr = some a) (hn : u.len = some n) :
    EndsAs h .readData (firstPhase .readData u.readPreWren) u (runReadData h a n u)
      (successPhases .readData u.readPreWren) := by
  rw [runReadData]
  cases hpre : u.readPreWren with
  | false => exact endsAs_runReadFrame (by rwa [hpre] at hg) herr ha hn
  | true =>
    rw [hpre] at hg
    have hlatch := reaches_writeEnableSeq hg herr rfl (by simp)
    have hregs : SameRegs u (writeEnableSeq h u).2 := sameRegs_latchSeq h _ _ u
    simp only [if_true]
    generalize writeEnableSeq h u = e at hlatch hregs ⊢
    obtain ⟨k, t⟩ := e
    simp only at hlatch hregs
    by_cases hk : k = .ok
    · subst hk
      rw [leaveLatch_ok] at hlatch
      obtain ⟨herr', haddr, hlen, -⟩ := hregs
      exact hlatch.trans (endsAs_runReadFrame (hlatch.goes hg) (herr'.trans herr) (haddr.trans ha) (hlen.trans hn)) rfl
    · simp only [hk, if_false]
      exact hlatch.latch_failed hk (completePhase_readData_failed rfl hk) rfl (by simp)

end

end

/-! ### All nine operations -/

section

variable {h : Handle} {i : Instr} {s t : State}

theorem Goes.begin (hr : s.Ready h) (ha : s.transportAnswers = true) (i : Instr) (p : Phase) :
    Goes h i ((s.begin i).goto p) :=
  ⟨State.current_of_opsel rfl, hr.2, ha⟩

/-- `CHECK` goes on to the write-enable where both parameters are good, else to `COMPLETE` (R121, R122). -/
theorem phaseRun_check {u : State} {a n : Word32} (ha : u.addr = some a) (hn : u.len = some n)
    (hl : lengthError n = false) (hal : alignError a n = false) :
    PhaseRun h i (u.goto .check) [.check] (u.goto .wlSel) :=
  .single rfl (by simp) (withProgramParams_good ha hn hl hal _ _)

theorem phaseRun_check_bad {u : State} {a n : Word32} (ha : u.addr = some a) (hn : u.len = some n)
    (hb : BadParams a n) : PhaseRun h i (u.goto .check) [.check] (u.failTo .complete .param) :=
  .single rfl (by simp) (withProgramParams_bad ha hn hb _ _)

/-- The end of operation `i` that tells that its success path was taken: `OK`, if it writes `RESULT` at all. -/
abbrev VisitsAll (i : Instr) (t : State) : Prop := writesResult i = true → t.result = some .ok

theorem EndsAs.visitsAll {p : Phase} {u t : State} {path : List Phase} (he : EndsAs h i p u t path)
    (hi : writesResult i = true) : Reaches h i (u.goto p) t (VisitsAll i t) path := by
  obtain ⟨ps, hr, hlen, hpath⟩ := he
  exact ⟨ps, hr, hlen, fun hv => hpath (hv hi)⟩

/-- Every operation, started with its operands in place, is performed phase by phase to the state of its atomic form. -/
theorem exec_reaches (hr : s.Ready h) (ho : s.operandsHold i = true) (ha : s.transportAnswers = true) :
    ∃ t, exec i s = .next t ∧ Reaches h i ((s.begin i).goto (firstPhase i s.readPreWren)) t (VisitsAll i t)
      (successPhases i s.readPreWren) := by
  have hrun := withIdleHandle_of_ready hr
  have hg := Goes.begin hr ha i (firstPhase i s.readPreWren)
  have hsettle := settle_of_answers ha
  cases i with
  | csAssert => exact ⟨_, hrun _, (PhaseRun.single rfl (by simp [firstPhase]) rfl).reaches⟩
  | csDeassert => exact ⟨_, hrun _, (PhaseRun.single rfl (by simp [firstPhase]) rfl).reaches⟩
  | verifyId => exact ⟨_, (hrun _).trans (hsettle _), (endsAs_runVerifyId hg rfl).visitsAll rfl⟩
  | readStatus => exact ⟨_, (hrun _).trans (hsettle _), (endsAs_runReadStatus hg rfl).visitsAll rfl⟩
  | writeEnable => exact ⟨_, (hrun _).trans (hsettle _), (endsAs_latchOp (.inl rfl) hg rfl).visitsAll rfl⟩
  | writeDisable => exact ⟨_, (hrun _).trans (hsettle _), (endsAs_latchOp (.inr rfl) hg rfl).visitsAll rfl⟩
  | chipErase => exact ⟨_, (hrun _).trans (hsettle _), (endsAs_runChipErase hg rfl).visitsAll rfl⟩
  | pageProgram =>
    obtain ⟨a, n, haddr, hlen⟩ := addrLen_of_operandsHold (.inl rfl) ho
    by_cases hb : BadParams a n
    · have hcheck := phaseRun_check_bad (h := h) (i := .pageProgram) (u := s.begin .pageProgram) haddr hlen hb
      refine ⟨_, (hrun _).trans (withProgramParams_bad haddr hlen hb _ _), ?_⟩
      exact (hcheck.append (phaseRun_complete rfl (completePhase_pageProgram_failed rfl (by simp)))).reaches_short
        (by simp [successPhases]) (by simp [writesResult])
    · obtain ⟨hl, hal⟩ : lengthError n = false ∧ alignError a n = false := by simpa [BadParams] using hb
      obtain ⟨v, hv⟩ : ∃ v, cellSlice s.txbuf 0 n.toNat = some v := by
        simpa [State.operandsHold, haddr, hlen, hl, hal, Option.isSome_iff_exists] using ho
      have hcheck := phaseRun_check (h := h) (i := .pageProgram) (u := s.begin .pageProgram) haddr hlen hl hal
      refine ⟨_, (hrun _).trans ((withProgramParams_good haddr hlen hl hal _ _).trans
        ((withPayload_eq hv _).trans (hsettle _))), ?_⟩
      exact ((endsAs_runPageProgram (u := s.begin .pageProgram) (hcheck.goes hg) rfl haddr hlen hv).visitsAll
        rfl).after hcheck
  | readData =>
    obtain ⟨a, n, haddr, hlen⟩ := addrLen_of_operandsHold (.inr rfl) ho
    exact ⟨_, (hrun _).trans ((withAddrLen_eq haddr hlen _).trans (hsettle _)),
      (endsAs_runReadData hg rfl haddr hlen).visitsAll rfl⟩

theorem length_successPhases (i : Instr) (pre : Bool) : (successPhases i pre).length ≤ maxPhases := by
  cases i <;> cases pre <;> decide

/-- A started operation: the phases it visits and the state they end in. -/
theorem phases_of_start (ha : s.transportAnswers = true) (hs : startPhases i s = .next t) :
    ∃ u, exec i s = .next u ∧ runPhases maxPhases t = .next u ∧
      (VisitsAll i u → phasesVisited maxPhases t = successPhases i s.readPreWren) := by
  obtain ⟨⟨h, hr⟩, ho, rfl⟩ := startPhases_next hs
  obtain ⟨u, he, ps, hrun, hlen, hpath⟩ := exec_reaches hr ho ha
  have hg := Goes.begin hr ha i (firstPhase i s.readPreWren)
  have hidle : u.seq = .idle := by
    obtain ⟨-, tr, -, hend, -, -⟩ := exec_ends he
    rw [hend]
  have hmax := hlen.trans (length_successPhases i s.readPreWren)
  exact ⟨u, he, hrun.runPhases_eq hg hidle hmax, fun hv => (hrun.phasesVisited_eq hg hidle hmax).trans (hpath hv)⟩

end

/-! ### The same refusals at the start (R28, R32, R182) -/

/-- Two outcomes are refused for the same reasons. -/
def SameRefusals (o o' : Outcome) : Prop := ∀ r, o = .refused r ↔ o' = .refused r

theorem sameRefusals_next (t u : State) : SameRefusals (.next t) (.next u) := fun _ => by simp

theorem sameRefusals_settle (t s u : State) : SameRefusals (.next t) (settle s u) := fun _ => by
  rcases settle_cases s u with h | h <;> simp [h]

theorem sameRefusals_withOperand {α : Type} {r : HostReg} {x : Option α} {k k' : α → Outcome}
    (hk : ∀ v, SameRefusals (k v) (k' v)) : SameRefusals (withOperand r x k) (withOperand r x k') := by
  cases x with
  | none => exact fun _ => Iff.rfl
  | some v => exact hk v

theorem sameRefusals_withIdleHandle {s : State} {k k' : Handle → Outcome} (hk : ∀ h, SameRefusals (k h) (k' h)) :
    SameRefusals (withIdleHandle s k) (withIdleHandle s k') := by
  unfold withIdleHandle
  split
  · exact fun _ => Iff.rfl
  · exact sameRefusals_withOperand fun _ => sameRefusals_withOperand fun _ => sameRefusals_withOperand fun _ => hk _

theorem sameRefusals_withProgramParams {s : State} {bad bad' : Outcome} {good good' : Word32 → Word32 → Outcome}
    (hb : SameRefusals bad bad') (hg : ∀ a n, SameRefusals (good a n) (good' a n)) :
    SameRefusals (withProgramParams s bad good) (withProgramParams s bad' good') := by
  refine sameRefusals_withOperand fun a => sameRefusals_withOperand fun n => ?_
  beta_reduce
  split
  · exact hb
  · split
    · exact hb
    · exact hg a n

theorem sameRefusals_startPhases_exec (i : Instr) (s : State) : SameRefusals (startPhases i s) (exec i s) := by
  cases i with
  | csAssert => exact sameRefusals_withIdleHandle fun _ => sameRefusals_next _ _
  | csDeassert => exact sameRefusals_withIdleHandle fun _ => sameRefusals_next _ _
  | pageProgram =>
    exact sameRefusals_withIdleHandle fun _ => sameRefusals_withProgramParams (sameRefusals_next _ _) fun _ _ =>
      sameRefusals_withOperand fun _ => sameRefusals_settle _ _ _
  | readData =>
    exact sameRefusals_withIdleHandle fun _ => sameRefusals_withOperand fun _ => sameRefusals_withOperand fun _ =>
      sameRefusals_settle _ _ _
  | _ => exact sameRefusals_withIdleHandle fun _ => sameRefusals_settle _ _ _

/-- Settles O51: each frame, the latch sequence and the end of an operation are simulated by their phases. -/
theorem phasesRefineTheOperation : Obligations.PhasesRefineTheOperation := by
  unfold Obligations.PhasesRefineTheOperation
  refine fun i s => ⟨fun t ha hs => ?_, sameRefusals_startPhases_exec i s⟩
  obtain ⟨u, he, hrun, -⟩ := phases_of_start ha hs
  exact hrun.trans he.symm

/-- Settles O52: a run to a good end has taken the success path itself. -/
theorem phasesOfTheSuccessPath : Obligations.PhasesOfTheSuccessPath := by
  unfold Obligations.PhasesOfTheSuccessPath
  intro i s t u ha hs he hok
  obtain ⟨u', he', -, hvisits⟩ := phases_of_start ha hs
  obtain rfl := Host.Outcome.next.inj (he.symm.trans he')
  exact hvisits hok

end Sys2Proof.Machine

/-! ## The ends of an operation: its result kind, and how much of its success path it took (R167, R174) -/

namespace Sys2Proof.Machine

open Sys2Proof

/-! ### Events that cut a success path (R165, R167) -/

/-- With result `r` a path of `len` primitives may be cut after `k` of them (R167). -/
def CutAllowed (len k : Nat) : ResultKind → Prop
  | .ok => k = len
  | .comm => True
  | .regVerify => k = (latchPrims .writeEnable).length
  | .idMismatch => k = len
  | .param => k = 0

/-- The events `tr` of an operation with result `r` are a cut of the success path `P`: the open window is closed,
nothing else follows a failed request, and a request failed exactly when `r` is `COMM` (R167). -/
structure CutsPath (P : List Prim) (r : ResultKind) (tr : List Event) : Prop where
  prims : ∃ k ≤ P.length, tr.map Event.prim = closeCut (P.take k) ∧ CutAllowed P.length k r
  stops : stopsAtFailure tr = true
  comm : r = .comm ↔ tr.any Event.failed = true

@[simp] theorem length_frameWindow (hd : Header) (rest : List Prim) :
    (frameWindow hd rest).length = rest.length + 3 := by
  simp [frameWindow]

@[simp] theorem length_latchPrims (cmd : Header) : (latchPrims cmd).length = 7 := rfl

/-- The latch sequence closes its windows, so what follows it is cut as if it stood alone. -/
theorem closeCut_latchPrims_append (cmd : Header) (ps : List Prim) :
    closeCut (latchPrims cmd ++ ps) = latchPrims cmd ++ closeCut ps := by
  have hin : endsInside false (latchPrims cmd ++ ps) = endsInside false ps := rfl
  simp only [closeCut, hin]
  split <;> simp

section

variable {P Q : List Prim} {r : ResultKind} {tr : List Event}

/-- An operation rejected with `PARAM` has no event (R121, R122). -/
theorem cutsPath_rejected (P : List Prim) : CutsPath P .param [] :=
  ⟨⟨0, Nat.zero_le _, rfl, rfl⟩, rfl, by simp⟩

/-- What cuts a path in `COMM` cuts every longer one at the same primitive. -/
theorem CutsPath.comm_append (hc : CutsPath P .comm tr) (Q : List Prim) : CutsPath (P ++ Q) .comm tr := by
  obtain ⟨⟨k, hk, hp, -⟩, hs, hf⟩ := hc
  refine ⟨⟨k, ?_, ?_, trivial⟩, hs, hf⟩
  · rw [List.length_append]
    omega
  · rw [List.take_append_of_le_length hk, hp]

/-! ### One frame -/

/-- The header fails: the window is closed after it (R143). -/
theorem cutsPath_headerFail (h : Handle) (hd : Header) (rest : List Prim) :
    CutsPath (frameWindow hd rest) .comm
      [.cs h.csLine .low, .tx h.bus h.timeout hd.bytes false, .cs h.csLine .high] :=
  ⟨⟨2, by simp, rfl, trivial⟩, rfl, by simp [Event.failed]⟩

/-- A command frame is one transmit, sent or failed (R72). -/
theorem cutsPath_command (h : Handle) (hd : Header) (ok : Bool) :
    CutsPath (frameWindow hd []) (if ok then .ok else .comm)
      [.cs h.csLine .low, .tx h.bus h.timeout hd.bytes ok, .cs h.csLine .high] := by
  cases ok
  · exact cutsPath_headerFail h hd []
  · exact ⟨⟨3, le_rfl, rfl, rfl⟩, rfl, by simp [Event.failed]⟩

/-- The payload of a program frame, sent or failed (R124). -/
theorem cutsPath_payload (h : Handle) (hd : Header) (v : List Byte) (ok : Bool) :
    CutsPath (frameWindow hd [.tx v]) (if ok then .ok else .comm)
      [.cs h.csLine .low, .tx h.bus h.timeout hd.bytes true, .tx h.bus h.timeout v ok, .cs h.csLine .high] := by
  cases ok
  · exact ⟨⟨3, by simp, rfl, trivial⟩, rfl, by simp [Event.failed]⟩
  · exact ⟨⟨4, le_rfl, rfl, rfl⟩, rfl, by simp [Event.failed]⟩

theorem cutsPath_receiveFail (h : Handle) (hd : Header) (n : Nat) :
    CutsPath (frameWindow hd [.rx n]) .comm
      [.cs h.csLine .low, .tx h.bus h.timeout hd.bytes true, .rx h.bus h.timeout n none, .cs h.csLine .high] :=
  ⟨⟨3, by simp, rfl, trivial⟩, rfl, by simp [Event.failed]⟩

/-- The receive of a frame delivers its bytes, which `VERIFY_ID` then accepts or not (R97). -/
theorem cutsPath_received (h : Handle) (hd : Header) (n : Nat) (b : List Byte) (hr : r = .ok ∨ r = .idMismatch) :
    CutsPath (frameWindow hd [.rx n]) r
      [.cs h.csLine .low, .tx h.bus h.timeout hd.bytes true, .rx h.bus h.timeout n (some b), .cs h.csLine .high] := by
  rcases hr with rfl | rfl <;> exact ⟨⟨4, le_rfl, rfl, rfl⟩, rfl, by simp [Event.failed]⟩

/-! ### The latch sequence, and what follows it (R109, R113) -/

theorem cutsPath_of_mem_latchFailures {h : Handle} {cmd : Header} (htr : tr ∈ latchFailures h cmd) :
    CutsPath (latchPrims cmd) .comm tr := by
  simp only [latchFailures, List.mem_cons, List.not_mem_nil, or_false] at htr
  rcases htr with rfl | rfl | rfl
  · exact (cutsPath_headerFail h cmd []).comm_append _
  · exact ⟨⟨5, by simp, rfl, trivial⟩, rfl, by simp [Event.failed]⟩
  · exact ⟨⟨6, by simp, rfl, trivial⟩, rfl, by simp [Event.failed]⟩

/-- A latch that is not verified cuts the path after the status window (R113). -/
theorem cutsPath_unverified (h : Handle) (cmd : Header) (b : Byte) (Q : List Prim) :
    CutsPath (latchPrims cmd ++ Q) .regVerify (latchEvents h cmd b) :=
  ⟨⟨7, by simp, rfl, rfl⟩, rfl, by simp [latchEvents, Event.failed]⟩

/-- An operation that is one latch sequence has taken all of its path, whatever the verdict (R109). -/
theorem cutsPath_latchVerdict (h : Handle) (cmd : Header) (want : Bool) (b : Byte) :
    CutsPath (latchPrims cmd) (latchVerdict want b) (latchEvents h cmd b) := by
  rcases latchVerdict_cases want b with ⟨hv, -⟩ | ⟨hv, -⟩ <;> rw [hv]
  · exact ⟨⟨7, le_rfl, rfl, rfl⟩, rfl, by simp [latchEvents, Event.failed]⟩
  · exact cutsPath_unverified h cmd b []

/-- After a verified latch the path is cut where the rest of it is. -/
theorem CutsPath.after_latch (hc : CutsPath Q r tr) (hr : r = .ok ∨ r = .comm) (h : Handle) (b : Byte) :
    CutsPath (latchPrims .writeEnable ++ Q) r (latchEvents h .writeEnable b ++ tr) := by
  obtain ⟨⟨k, hk, hp, hall⟩, hs, hf⟩ := hc
  refine ⟨⟨(latchPrims .writeEnable).length + k, by simpa using hk, ?_, ?_⟩, hs, hf.trans ?_⟩
  · rw [List.take_length_add_append, closeCut_latchPrims_append, List.map_append, hp]
    rfl
  · rcases hr with rfl | rfl
    · exact (congrArg _ hall).trans List.length_append.symm
    · trivial
  · simp [latchEvents, Event.failed]

end

/-! ### The seven operations -/

/-- The success path of operation `i` with the operands that the registers of `s` hold (R79). -/
def State.successPath (i : Instr) (s : State) : List Prim :=
  successPrims i s.readPreWren (s.addr.getD 0) (s.len.getD 0)
    ((cellSlice s.txbuf 0 (s.len.getD 0).toNat).getD [])

/-- Operation `i` has gone from `s` to `t` with one of the results its row allows (R174), on a cut of its success
path (R167). -/
structure EndsOnPath (i : Instr) (s t : State) (r : ResultKind) : Prop where
  kind : r ∈ resultKinds i s.readPreWren
  result : t.result = some r
  cuts : CutsPath (s.successPath i) r (newEvents s t)

section

variable {i : Instr} {s t : State} {r : ResultKind} {tr : List Event}

theorem EndedWith.endsOnPath (hw : EndedWith i s t tr r) (hk : r ∈ resultKinds i s.readPreWren)
    (hc : CutsPath (s.successPath i) r tr) : ∃ r, EndsOnPath i s t r :=
  ⟨r, hk, hw.result, hw.newEvents.symm ▸ hc⟩

theorem idVerdict_cases (b : List Byte) : idVerdict b = .ok ∨ idVerdict b = .idMismatch := by
  unfold idVerdict
  split
  · exact .inl rfl
  · exact .inr rfl

theorem ok_or_comm (good : Bool) :
    (if good then ResultKind.ok else .comm) = .ok ∨ (if good then ResultKind.ok else .comm) = .comm := by
  cases good
  · exact .inr rfl
  · exact .inl rfl

/-- `WRITE_ENABLE` and `WRITE_DISABLE` alike: the latch sequence is all of the path. -/
theorem latchOp_endsOnPath {h : Handle} {cmd : Header} {want : Bool}
    (hkinds : resultKinds i s.readPreWren = [.ok, .comm, .regVerify]) (hpath : s.successPath i = latchPrims cmd)
    (hends : (∃ tr ∈ latchFailures h cmd, EndedWith i s t tr .comm) ∨
      ∃ b, EndedWith i s t (latchEvents h cmd b) (latchVerdict want b)) : ∃ r, EndsOnPath i s t r := by
  rcases hends with ⟨tr, hm, hw⟩ | ⟨b, hw⟩
  · exact hw.endsOnPath (by simp [hkinds]) (hpath ▸ cutsPath_of_mem_latchFailures hm)
  · refine hw.endsOnPath ?_ (hpath ▸ cutsPath_latchVerdict h cmd want b)
    rcases latchVerdict_cases want b with ⟨hv, -⟩ | ⟨hv, -⟩ <;> simp [hkinds, hv]

/-- The events and the result of each operation, path by path. -/
theorem exec_endsOnPath (hi : writesResult i = true) (he : exec i s = .next t) : ∃ r, EndsOnPath i s t r := by
  cases i with
  | csAssert => cases hi
  | csDeassert => cases hi
  | verifyId =>
    obtain ⟨h, -, -, -, -, hw | hw | ⟨b, -, hw⟩⟩ := execVerifyId_cases he
    · exact hw.endsOnPath (by simp [resultKinds]) (cutsPath_headerFail h _ _)
    · exact hw.endsOnPath (by simp [resultKinds]) (cutsPath_receiveFail h _ _)
    · refine hw.endsOnPath ?_ (cutsPath_received h _ _ b (idVerdict_cases b))
      rcases idVerdict_cases b with hv | hv <;> simp [resultKinds, hv]
  | readStatus =>
    obtain ⟨h, -, -, -, ⟨-, hw⟩ | ⟨-, hw⟩ | ⟨b, -, hw⟩⟩ := execReadStatus_cases he
    · exact hw.endsOnPath (by simp [resultKinds]) (cutsPath_headerFail h .readStatus _)
    · exact hw.endsOnPath (by simp [resultKinds]) (cutsPath_receiveFail h .readStatus _)
    · exact hw.endsOnPath (by simp [resultKinds]) (cutsPath_received h .readStatus _ [b] (.inl rfl))
  | writeEnable =>
    obtain ⟨h, -, -, -, -, hends⟩ := execWriteEnable_cases he
    exact latchOp_endsOnPath rfl rfl hends
  | writeDisable =>
    obtain ⟨h, -, -, -, -, hends⟩ := execWriteDisable_cases he
    exact latchOp_endsOnPath rfl rfl hends
  | chipErase =>
    obtain ⟨h, -, -, -, -, ⟨tr, hm, hw⟩ | ⟨b, -, hw⟩ | ⟨b, ok, -, hw⟩⟩ := execChipErase_cases he
    · exact hw.endsOnPath (by simp [resultKinds]) ((cutsPath_of_mem_latchFailures hm).comm_append _)
    · exact hw.endsOnPath (by simp [resultKinds]) (cutsPath_unverified h _ b _)
    · refine hw.endsOnPath ?_ ((cutsPath_command h _ ok).after_latch (ok_or_comm ok) h b)
      rcases ok_or_comm ok with hk | hk <;> simp [resultKinds, hk]
  | pageProgram =>
    obtain ⟨h, a, n, -, ha, hn, -, -, ⟨-, rfl⟩ |
      ⟨v, -, -, hv, ⟨tr, hm, -, hw⟩ | ⟨b, -, -, hw⟩ | ⟨b, -, -, hw⟩ | ⟨b, ok, -, -, hw⟩⟩⟩ := execPageProgram_cases he
    · refine ⟨.param, by simp [resultKinds], rfl, ?_⟩
      simpa [newEvents] using cutsPath_rejected (s.successPath .pageProgram)
    all_goals
      have hpath : s.successPath .pageProgram =
          latchPrims .writeEnable ++ frameWindow (.pageProgram (addr24 a)) [.tx v] := by
        simp [State.successPath, successPrims, ha, hn, hv]
    · exact hw.endsOnPath (by simp [resultKinds]) (hpath ▸ (cutsPath_of_mem_latchFailures hm).comm_append _)
    · exact hw.endsOnPath (by simp [resultKinds]) (hpath ▸ cutsPath_unverified h _ b _)
    · exact hw.endsOnPath (by simp [resultKinds]) (hpath ▸ (cutsPath_headerFail h _ _).after_latch (.inr rfl) h b)
    · refine hw.endsOnPath ?_ (hpath ▸ (cutsPath_payload h _ v ok).after_latch (ok_or_comm ok) h b)
      rcases ok_or_comm ok with hk | hk <;> simp [resultKinds, hk]
  | readData =>
    obtain ⟨h, a, n, -, ha, hn, -, -, hc⟩ := execReadData_cases he
    have hpath : s.successPath .readData = (if s.readPreWren then latchPrims .writeEnable else []) ++
        frameWindow (.readBytes (addr24 a)) [.rx n.toNat] := by
      simp [State.successPath, successPrims, ha, hn]
    rcases hc with ⟨hp, -, tr, hm, hw⟩ | ⟨hp, -, b, -, hw⟩ | ⟨pre, hpre, hc⟩
    · refine hw.endsOnPath (by simp [resultKinds, hp]) ?_
      rw [hpath, if_pos hp]
      exact (cutsPath_of_mem_latchFailures hm).comm_append _
    · refine hw.endsOnPath (by simp [resultKinds, hp]) ?_
      rw [hpath, if_pos hp]
      exact cutsPath_unverified h _ b _
    · have hframe : ∀ {r : ResultKind} {tr : List Event}, EndedWith .readData s t (pre ++ tr) r →
          r = .ok ∨ r = .comm → CutsPath (frameWindow (.readBytes (addr24 a)) [.rx n.toNat]) r tr →
          ∃ r, EndsOnPath .readData s t r := by
        intro r tr hw hr hcut
        refine hw.endsOnPath ?_ ?_
        · rcases hr with rfl | rfl <;> simp only [resultKinds] <;> split <;> simp
        · rw [hpath]
          rcases hpre with ⟨hp, b, -, rfl⟩ | ⟨hp, rfl⟩ <;> rw [hp]
          · exact hcut.after_latch hr h b
          · exact hcut
      rcases hc with ⟨-, hw⟩ | ⟨-, hw⟩ | ⟨b, -, -, hw⟩
      · exact hframe hw (.inr rfl) (cutsPath_headerFail h _ _)
      · exact hframe hw (.inr rfl) (cutsPath_receiveFail h _ _)
      · exact hframe hw (.inl rfl) (cutsPath_received h _ _ b (.inl rfl))

end

/-- Settles O44: the success path of `s` is cut where the result allows. -/
theorem abortsCutTheSuccessPath : Obligations.AbortsCutTheSuccessPath := by
  unfold Obligations.AbortsCutTheSuccessPath
  rintro i s t _ _ _ hi he rfl rfl rfl
  obtain ⟨r, -, hres, ⟨k, hk, hprims, hcut⟩, hstops, hcomm⟩ := exec_endsOnPath hi he
  refine ⟨⟨k, hk, hprims, ?_⟩, hstops, by simpa [hres] using hcomm⟩
  refine ⟨fun hr => ?_, fun hr => ?_, fun hr => ?_⟩ <;> rw [hres] at hr
  · rcases hr with hr | hr <;> cases hr <;> exact hcut
  · cases hr
    exact hcut
  · cases hr
    exact hcut

/-! ### Every result kind of the table occurs (R174) -/

/-- What the transport answers to every request so that operation `i` ends in `k`. The expected pair begins with a
byte that has bit 1 set, so it pleases every check but that of `WRITE_DISABLE`. -/
def answerFor (i : Instr) (k : ResultKind) : Answer :=
  if k = .comm then .fail
  else if (k = .ok ↔ i ≠ .writeDisable) then .ok expectedId
  else .ok [0x00, 0x00]

/-- A ready block with nothing to program or read, unless `PARAM` asks for a length that is too long. -/
def kindWitness (i : Instr) (pre : Bool) (k : ResultKind) : State :=
  { State.reset with
    bus := some 0, csLine := some { port := 0, pin := 0 }, timeout := some 0, addr := some 0,
    len := some (if k = .param then 257 else 0), readPreWren := pre,
    transport := { script := List.replicate 5 (answerFor i k), draws := 0, env := none } }

/-- The result with which an outcome leaves the block. -/
def resultOf : Outcome → Option ResultKind
  | .next t => t.result
  | .fault _ => none
  | .refused _ => none

theorem resultOf_eq_some {o : Outcome} {k : ResultKind} (h : resultOf o = some k) :
    ∃ t, o = .next t ∧ t.result = some k := by
  cases o with
  | next t => exact ⟨t, rfl, h⟩
  | fault f => cases h
  | refused r => cases h

/-- Each operation, run from the witness of each kind of its row. -/
theorem resultOf_exec_kindWitness (i : Instr) :
    ∀ pre, ∀ k ∈ resultKinds i pre, resultOf (exec i (kindWitness i pre k)) = some k := by
  cases i <;> decide

/-- Settles O38: the kinds of each path, and one state for each kind. -/
theorem resultKindsPerOperation : Obligations.ResultKindsPerOperation := by
  unfold Obligations.ResultKindsPerOperation
  refine ⟨fun i s t he => ⟨fun hi => ?_, fun hi => ?_⟩, fun i pre k hk => ?_⟩
  · obtain ⟨r, hend⟩ := exec_endsOnPath hi he
    exact ⟨r, hend.kind, hend.result⟩
  · obtain ⟨h, tr, -, -, -, hkeeps⟩ := exec_ends he
    exact hkeeps.result hi
  · obtain ⟨t, he, hres⟩ := resultOf_eq_some (resultOf_exec_kindWitness i pre k hk)
    exact ⟨kindWitness i pre k, t, rfl, he, hres⟩

end Sys2Proof.Machine

/-! ## The reset input (R180, R181) -/

namespace Sys2Proof.Machine

open Sys2Proof

theorem step_of_reset {s : State} {rest : List Input} (hin : s.inputs = .reset :: rest) :
    step s = .next { s with inputs := rest }.applyReset := by
  simp [step, stepInputs, hin, takeInput]

/-- An abandoned operation draws the chip's bits anew, and uses up no answer (U19). -/
@[simp] theorem Transport.abandon_script (t : Transport) : t.abandon.script = t.script := by
  unfold Transport.abandon
  split <;> rfl

theorem State.applyReset_script (s : State) : s.applyReset.transport.script = s.transport.script := by
  unfold State.applyReset
  split
  · exact Transport.abandon_script s.transport
  · rfl

/-- The reset of an idle block tells the transport nothing. -/
theorem State.applyReset_transport_of_idle {s : State} (hr : s.running = false) :
    s.applyReset.transport = s.transport := by
  simp [State.applyReset, hr]

/-- Settles O21: the step is `applyReset` on the state without the input. -/
theorem resetInputAbandonsTheOperation : Obligations.ResetInputAbandonsTheOperation := by
  unfold Obligations.ResetInputAbandonsTheOperation
  exact fun s rest hin => ⟨_, step_of_reset hin, rfl, State.applyReset_script { s with inputs := rest },
    State.applyReset_transport_of_idle (s := { s with inputs := rest })⟩

end Sys2Proof.Machine
